-- ==== Sys2Proof/Word.lean ====
section
/-!
DEFINITION. The two word types of the hardware (spec 00_scope.md R7, R9): an 8-bit register, memory cell or bus
datum, and a 16-bit program counter or bus address. Everything built from them that a test could show wrong
(joining bytes, extensions, pages) stands in Machine/Ops.lean and Decode.lean.
-/

namespace Sys2Proof

/-- A `u8` of the spec: register, memory cell, bus datum (R7). -/
abbrev Byte := BitVec 8

/-- A `u16` of the spec: program counter and bus address (R7). -/
abbrev Addr := BitVec 16

end Sys2Proof
end

