-- ==== Sys2Proof/Syntax.lean ====
section
/-!
DEFINITION. The instructions: one constructor per mnemonic of spec/opcode_table.json (30_encoding.md R106), with its
operand in the addressing-mode form the row's "format" names; a row of the table is one constructor in one form.
The 105 rows UNDOC are the one constructor `undoc`, which holds the opcode value (R108).
-/

namespace Sys2Proof

/-- The 13 addressing modes (30_encoding.md R101). -/
inductive Mode where
  | imp | acc | imm | zp | zpx | zpy | abs | abx | aby | ind | izx | izy | rel
  deriving DecidableEq, Repr

/-- An operand: its mode and the value assembled from its operand bytes (30_encoding.md R102). -/
inductive Operand where
  /-- implied: no operand byte -/
  | imp
  /-- the accumulator: no operand byte -/
  | acc
  /-- immediate: the operand byte itself -/
  | imm (b : Byte)
  /-- zero page: the zero-page address -/
  | zp (z : Byte)
  /-- zero page,X: the base in the zero page -/
  | zpx (z : Byte)
  /-- zero page,Y: the base in the zero page -/
  | zpy (z : Byte)
  /-- absolute: the address -/
  | abs (a : Addr)
  /-- absolute,X: the base address -/
  | abx (a : Addr)
  /-- absolute,Y: the base address -/
  | aby (a : Addr)
  /-- indirect: the pointer's address -/
  | ind (a : Addr)
  /-- (zero page,X): the base of the pointer's address -/
  | izx (z : Byte)
  /-- (zero page),Y: the pointer's address -/
  | izy (z : Byte)
  /-- relative: the offset byte, signed -/
  | rel (off : Byte)
  deriving DecidableEq, Repr

/-- The mode of an operand. -/
def Operand.mode : Operand → Mode
  | .imp => .imp
  | .acc => .acc
  | .imm _ => .imm
  | .zp _ => .zp
  | .zpx _ => .zpx
  | .zpy _ => .zpy
  | .abs _ => .abs
  | .abx _ => .abx
  | .aby _ => .aby
  | .ind _ => .ind
  | .izx _ => .izx
  | .izy _ => .izy
  | .rel _ => .rel

/-- The instructions (30_encoding.md R106, R108). A mnemonic with one mode only needs no `Operand`: the branches hold
their offset byte; JSR holds the low byte of its target, because its high byte is read after its pushes
(46_control.md R370; log entry 10). -/
inductive Instr where
  | adc (o : Operand)
  | and (o : Operand)
  | asl (o : Operand)
  | bcc (off : Byte)
  | bcs (off : Byte)
  | beq (off : Byte)
  | bit (o : Operand)
  | bmi (off : Byte)
  | bne (off : Byte)
  | bpl (off : Byte)
  | brk
  | bvc (off : Byte)
  | bvs (off : Byte)
  | clc
  | cld
  | cli
  | clv
  | cmp (o : Operand)
  | cpx (o : Operand)
  | cpy (o : Operand)
  | dec (o : Operand)
  | dex
  | dey
  | eor (o : Operand)
  | inc (o : Operand)
  | inx
  | iny
  | jmp (o : Operand)
  | jsr (lo : Byte)
  | lda (o : Operand)
  | ldx (o : Operand)
  | ldy (o : Operand)
  | lsr (o : Operand)
  | nop
  | ora (o : Operand)
  | pha
  | php
  | pla
  | plp
  | rol (o : Operand)
  | ror (o : Operand)
  | rti
  | rts
  | sbc (o : Operand)
  | sec
  | sed
  | sei
  | sta (o : Operand)
  | stx (o : Operand)
  | sty (o : Operand)
  | tax
  | tay
  | tsx
  | txa
  | txs
  | tya
  | undoc (op : Byte)
  deriving DecidableEq, Repr

end Sys2Proof
end

