-- ==== Sys2Proof/WellFormed.lean ====
section
/-!
DEFINITION. Which terms of `Instr` are instructions of the hardware: a mnemonic's operand has a mode that the opcode
map gives that mnemonic (30_encoding.md R105; the tables of the instruction rules), and an undocumented value is one
of the 105 of R108.
-/

namespace Sys2Proof

/-- The modes of LDA, ADC, SBC, AND, ORA, EOR and CMP (R210, R274 to R278, R280). -/
def Modes.alu : List Mode := [.imm, .zp, .zpx, .abs, .abx, .aby, .izx, .izy]

/-- The modes of STA (R213). -/
def Modes.sta : List Mode := [.zp, .zpx, .abs, .abx, .aby, .izx, .izy]

/-- The modes of LDX (R211). -/
def Modes.ldx : List Mode := [.imm, .zp, .zpy, .abs, .aby]

/-- The modes of LDY (R212). -/
def Modes.ldy : List Mode := [.imm, .zp, .zpx, .abs, .abx]

/-- The modes of STX (R214). -/
def Modes.stx : List Mode := [.zp, .zpy, .abs]

/-- The modes of STY (R215). -/
def Modes.sty : List Mode := [.zp, .zpx, .abs]

/-- The modes of CPX and CPY (R281, R282). -/
def Modes.cpr : List Mode := [.imm, .zp, .abs]

/-- The modes of BIT (R283). -/
def Modes.bit : List Mode := [.zp, .abs]

/-- The modes of INC and DEC (R284, R285). -/
def Modes.incDec : List Mode := [.zp, .zpx, .abs, .abx]

/-- The modes of ASL, LSR, ROL and ROR (R330 to R333). -/
def Modes.shift : List Mode := [.acc, .zp, .zpx, .abs, .abx]

/-- The modes of JMP (R369). -/
def Modes.jmp : List Mode := [.abs, .ind]

/-- The 105 undocumented opcode values, in the order of R108. -/
def undocumentedOpcodes : List Byte :=
  [0x02, 0x03, 0x04, 0x07, 0x0B, 0x0C, 0x0F, 0x12, 0x13, 0x14, 0x17, 0x1A, 0x1B, 0x1C, 0x1F] ++
  [0x22, 0x23, 0x27, 0x2B, 0x2F, 0x32, 0x33, 0x34, 0x37, 0x3A, 0x3B, 0x3C, 0x3F] ++
  [0x42, 0x43, 0x44, 0x47, 0x4B, 0x4F, 0x52, 0x53, 0x54, 0x57, 0x5A, 0x5B, 0x5C, 0x5F] ++
  [0x62, 0x63, 0x64, 0x67, 0x6B, 0x6F, 0x72, 0x73, 0x74, 0x77, 0x7A, 0x7B, 0x7C, 0x7F] ++
  [0x80, 0x82, 0x83, 0x87, 0x89, 0x8B, 0x8F, 0x92, 0x93, 0x97, 0x9B, 0x9C, 0x9E, 0x9F] ++
  [0xA3, 0xA7, 0xAB, 0xAF, 0xB2, 0xB3, 0xB7, 0xBB, 0xBF] ++
  [0xC2, 0xC3, 0xC7, 0xCB, 0xCF, 0xD2, 0xD3, 0xD4, 0xD7, 0xDA, 0xDB, 0xDC, 0xDF] ++
  [0xE2, 0xE3, 0xE7, 0xEB, 0xEF, 0xF2, 0xF3, 0xF4, 0xF7, 0xFA, 0xFB, 0xFC, 0xFF]

/-- Whether the term is an instruction of the hardware. -/
def Instr.wellFormed : Instr → Bool
  | .adc o => Modes.alu.contains o.mode
  | .and o => Modes.alu.contains o.mode
  | .asl o => Modes.shift.contains o.mode
  | .bcc _ => true
  | .bcs _ => true
  | .beq _ => true
  | .bit o => Modes.bit.contains o.mode
  | .bmi _ => true
  | .bne _ => true
  | .bpl _ => true
  | .brk => true
  | .bvc _ => true
  | .bvs _ => true
  | .clc => true
  | .cld => true
  | .cli => true
  | .clv => true
  | .cmp o => Modes.alu.contains o.mode
  | .cpx o => Modes.cpr.contains o.mode
  | .cpy o => Modes.cpr.contains o.mode
  | .dec o => Modes.incDec.contains o.mode
  | .dex => true
  | .dey => true
  | .eor o => Modes.alu.contains o.mode
  | .inc o => Modes.incDec.contains o.mode
  | .inx => true
  | .iny => true
  | .jmp o => Modes.jmp.contains o.mode
  | .jsr _ => true
  | .lda o => Modes.alu.contains o.mode
  | .ldx o => Modes.ldx.contains o.mode
  | .ldy o => Modes.ldy.contains o.mode
  | .lsr o => Modes.shift.contains o.mode
  | .nop => true
  | .ora o => Modes.alu.contains o.mode
  | .pha => true
  | .php => true
  | .pla => true
  | .plp => true
  | .rol o => Modes.shift.contains o.mode
  | .ror o => Modes.shift.contains o.mode
  | .rti => true
  | .rts => true
  | .sbc o => Modes.alu.contains o.mode
  | .sec => true
  | .sed => true
  | .sei => true
  | .sta o => Modes.sta.contains o.mode
  | .stx o => Modes.stx.contains o.mode
  | .sty o => Modes.sty.contains o.mode
  | .tax => true
  | .tay => true
  | .tsx => true
  | .txa => true
  | .txs => true
  | .tya => true
  | .undoc op => undocumentedOpcodes.contains op

/-- `Instr.wellFormed` as a proposition. -/
abbrev Instr.WellFormed (i : Instr) : Prop := i.wellFormed = true

end Sys2Proof
end

