-- ==== Sys2Proof/Decode.lean ====
section
/-!
DEFINITION. The decoder and, after it, the encoder. Decoding is the lookup of the whole opcode byte in the static
dispatch table (30_encoding.md R103, R105; one function per row of the opcode map, in its order) and the assembly of
the operand bytes (R102); it is total on the 256 opcode values. The encoder is written from the tables of the
instruction rules (42_load_store_transfer.md to 47_flags_nop.md) and 30_encoding.md R101.
-/

namespace Sys2Proof

/-- `hi:lo` of the spec: the `u16` value `hi * 256 + lo` (00_scope.md R9); operand words are little-endian
(30_encoding.md R102). -/
def joinBytes (hi lo : Byte) : Addr := BitVec.ofNat 16 (hi.toNat * 256 + lo.toNat)

/-- Bits 7 to 0 of a `u16`. -/
def lowByte (a : Addr) : Byte := BitVec.ofNat 8 a.toNat

/-- Bits 15 to 8 of a `u16`: its page (00_scope.md, glossary). -/
def highByte (a : Addr) : Byte := BitVec.ofNat 8 (a.toNat / 256)

/-- Row 0x of the opcode map (R105). -/
def decodeRow0 (op b1 b2 : Byte) : Instr :=
  match op.toNat % 16 with
  | 0x0 => .brk
  | 0x1 => .ora (.izx b1)
  | 0x5 => .ora (.zp b1)
  | 0x6 => .asl (.zp b1)
  | 0x8 => .php
  | 0x9 => .ora (.imm b1)
  | 0xA => .asl .acc
  | 0xD => .ora (.abs (joinBytes b2 b1))
  | 0xE => .asl (.abs (joinBytes b2 b1))
  | _ => .undoc op

/-- Row 1x of the opcode map (R105). -/
def decodeRow1 (op b1 b2 : Byte) : Instr :=
  match op.toNat % 16 with
  | 0x0 => .bpl b1
  | 0x1 => .ora (.izy b1)
  | 0x5 => .ora (.zpx b1)
  | 0x6 => .asl (.zpx b1)
  | 0x8 => .clc
  | 0x9 => .ora (.aby (joinBytes b2 b1))
  | 0xD => .ora (.abx (joinBytes b2 b1))
  | 0xE => .asl (.abx (joinBytes b2 b1))
  | _ => .undoc op

/-- Row 2x of the opcode map (R105). -/
def decodeRow2 (op b1 b2 : Byte) : Instr :=
  match op.toNat % 16 with
  | 0x0 => .jsr b1
  | 0x1 => .and (.izx b1)
  | 0x4 => .bit (.zp b1)
  | 0x5 => .and (.zp b1)
  | 0x6 => .rol (.zp b1)
  | 0x8 => .plp
  | 0x9 => .and (.imm b1)
  | 0xA => .rol .acc
  | 0xC => .bit (.abs (joinBytes b2 b1))
  | 0xD => .and (.abs (joinBytes b2 b1))
  | 0xE => .rol (.abs (joinBytes b2 b1))
  | _ => .undoc op

/-- Row 3x of the opcode map (R105). -/
def decodeRow3 (op b1 b2 : Byte) : Instr :=
  match op.toNat % 16 with
  | 0x0 => .bmi b1
  | 0x1 => .and (.izy b1)
  | 0x5 => .and (.zpx b1)
  | 0x6 => .rol (.zpx b1)
  | 0x8 => .sec
  | 0x9 => .and (.aby (joinBytes b2 b1))
  | 0xD => .and (.abx (joinBytes b2 b1))
  | 0xE => .rol (.abx (joinBytes b2 b1))
  | _ => .undoc op

/-- Row 4x of the opcode map (R105). -/
def decodeRow4 (op b1 b2 : Byte) : Instr :=
  match op.toNat % 16 with
  | 0x0 => .rti
  | 0x1 => .eor (.izx b1)
  | 0x5 => .eor (.zp b1)
  | 0x6 => .lsr (.zp b1)
  | 0x8 => .pha
  | 0x9 => .eor (.imm b1)
  | 0xA => .lsr .acc
  | 0xC => .jmp (.abs (joinBytes b2 b1))
  | 0xD => .eor (.abs (joinBytes b2 b1))
  | 0xE => .lsr (.abs (joinBytes b2 b1))
  | _ => .undoc op

/-- Row 5x of the opcode map (R105). -/
def decodeRow5 (op b1 b2 : Byte) : Instr :=
  match op.toNat % 16 with
  | 0x0 => .bvc b1
  | 0x1 => .eor (.izy b1)
  | 0x5 => .eor (.zpx b1)
  | 0x6 => .lsr (.zpx b1)
  | 0x8 => .cli
  | 0x9 => .eor (.aby (joinBytes b2 b1))
  | 0xD => .eor (.abx (joinBytes b2 b1))
  | 0xE => .lsr (.abx (joinBytes b2 b1))
  | _ => .undoc op

/-- Row 6x of the opcode map (R105). -/
def decodeRow6 (op b1 b2 : Byte) : Instr :=
  match op.toNat % 16 with
  | 0x0 => .rts
  | 0x1 => .adc (.izx b1)
  | 0x5 => .adc (.zp b1)
  | 0x6 => .ror (.zp b1)
  | 0x8 => .pla
  | 0x9 => .adc (.imm b1)
  | 0xA => .ror .acc
  | 0xC => .jmp (.ind (joinBytes b2 b1))
  | 0xD => .adc (.abs (joinBytes b2 b1))
  | 0xE => .ror (.abs (joinBytes b2 b1))
  | _ => .undoc op

/-- Row 7x of the opcode map (R105). -/
def decodeRow7 (op b1 b2 : Byte) : Instr :=
  match op.toNat % 16 with
  | 0x0 => .bvs b1
  | 0x1 => .adc (.izy b1)
  | 0x5 => .adc (.zpx b1)
  | 0x6 => .ror (.zpx b1)
  | 0x8 => .sei
  | 0x9 => .adc (.aby (joinBytes b2 b1))
  | 0xD => .adc (.abx (joinBytes b2 b1))
  | 0xE => .ror (.abx (joinBytes b2 b1))
  | _ => .undoc op

/-- Row 8x of the opcode map (R105). -/
def decodeRow8 (op b1 b2 : Byte) : Instr :=
  match op.toNat % 16 with
  | 0x1 => .sta (.izx b1)
  | 0x4 => .sty (.zp b1)
  | 0x5 => .sta (.zp b1)
  | 0x6 => .stx (.zp b1)
  | 0x8 => .dey
  | 0xA => .txa
  | 0xC => .sty (.abs (joinBytes b2 b1))
  | 0xD => .sta (.abs (joinBytes b2 b1))
  | 0xE => .stx (.abs (joinBytes b2 b1))
  | _ => .undoc op

/-- Row 9x of the opcode map (R105). -/
def decodeRow9 (op b1 b2 : Byte) : Instr :=
  match op.toNat % 16 with
  | 0x0 => .bcc b1
  | 0x1 => .sta (.izy b1)
  | 0x4 => .sty (.zpx b1)
  | 0x5 => .sta (.zpx b1)
  | 0x6 => .stx (.zpy b1)
  | 0x8 => .tya
  | 0x9 => .sta (.aby (joinBytes b2 b1))
  | 0xA => .txs
  | 0xD => .sta (.abx (joinBytes b2 b1))
  | _ => .undoc op

/-- Row Ax of the opcode map (R105). -/
def decodeRowA (op b1 b2 : Byte) : Instr :=
  match op.toNat % 16 with
  | 0x0 => .ldy (.imm b1)
  | 0x1 => .lda (.izx b1)
  | 0x2 => .ldx (.imm b1)
  | 0x4 => .ldy (.zp b1)
  | 0x5 => .lda (.zp b1)
  | 0x6 => .ldx (.zp b1)
  | 0x8 => .tay
  | 0x9 => .lda (.imm b1)
  | 0xA => .tax
  | 0xC => .ldy (.abs (joinBytes b2 b1))
  | 0xD => .lda (.abs (joinBytes b2 b1))
  | 0xE => .ldx (.abs (joinBytes b2 b1))
  | _ => .undoc op

/-- Row Bx of the opcode map (R105). -/
def decodeRowB (op b1 b2 : Byte) : Instr :=
  match op.toNat % 16 with
  | 0x0 => .bcs b1
  | 0x1 => .lda (.izy b1)
  | 0x4 => .ldy (.zpx b1)
  | 0x5 => .lda (.zpx b1)
  | 0x6 => .ldx (.zpy b1)
  | 0x8 => .clv
  | 0x9 => .lda (.aby (joinBytes b2 b1))
  | 0xA => .tsx
  | 0xC => .ldy (.abx (joinBytes b2 b1))
  | 0xD => .lda (.abx (joinBytes b2 b1))
  | 0xE => .ldx (.aby (joinBytes b2 b1))
  | _ => .undoc op

/-- Row Cx of the opcode map (R105). -/
def decodeRowC (op b1 b2 : Byte) : Instr :=
  match op.toNat % 16 with
  | 0x0 => .cpy (.imm b1)
  | 0x1 => .cmp (.izx b1)
  | 0x4 => .cpy (.zp b1)
  | 0x5 => .cmp (.zp b1)
  | 0x6 => .dec (.zp b1)
  | 0x8 => .iny
  | 0x9 => .cmp (.imm b1)
  | 0xA => .dex
  | 0xC => .cpy (.abs (joinBytes b2 b1))
  | 0xD => .cmp (.abs (joinBytes b2 b1))
  | 0xE => .dec (.abs (joinBytes b2 b1))
  | _ => .undoc op

/-- Row Dx of the opcode map (R105). -/
def decodeRowD (op b1 b2 : Byte) : Instr :=
  match op.toNat % 16 with
  | 0x0 => .bne b1
  | 0x1 => .cmp (.izy b1)
  | 0x5 => .cmp (.zpx b1)
  | 0x6 => .dec (.zpx b1)
  | 0x8 => .cld
  | 0x9 => .cmp (.aby (joinBytes b2 b1))
  | 0xD => .cmp (.abx (joinBytes b2 b1))
  | 0xE => .dec (.abx (joinBytes b2 b1))
  | _ => .undoc op

/-- Row Ex of the opcode map (R105). -/
def decodeRowE (op b1 b2 : Byte) : Instr :=
  match op.toNat % 16 with
  | 0x0 => .cpx (.imm b1)
  | 0x1 => .sbc (.izx b1)
  | 0x4 => .cpx (.zp b1)
  | 0x5 => .sbc (.zp b1)
  | 0x6 => .inc (.zp b1)
  | 0x8 => .inx
  | 0x9 => .sbc (.imm b1)
  | 0xA => .nop
  | 0xC => .cpx (.abs (joinBytes b2 b1))
  | 0xD => .sbc (.abs (joinBytes b2 b1))
  | 0xE => .inc (.abs (joinBytes b2 b1))
  | _ => .undoc op

/-- Row Fx of the opcode map (R105). -/
def decodeRowF (op b1 b2 : Byte) : Instr :=
  match op.toNat % 16 with
  | 0x0 => .beq b1
  | 0x1 => .sbc (.izy b1)
  | 0x5 => .sbc (.zpx b1)
  | 0x6 => .inc (.zpx b1)
  | 0x8 => .sed
  | 0x9 => .sbc (.aby (joinBytes b2 b1))
  | 0xD => .sbc (.abx (joinBytes b2 b1))
  | 0xE => .inc (.abx (joinBytes b2 b1))
  | _ => .undoc op

/-- The instruction of an opcode byte and the two bytes that follow it: the row of the dispatch table (R103, R105)
with its operand assembled (R102). Bytes that the row's format does not have are not looked at. -/
def Instr.ofBytes (op b1 b2 : Byte) : Instr :=
  match op.toNat / 16 with
  | 0x0 => decodeRow0 op b1 b2
  | 0x1 => decodeRow1 op b1 b2
  | 0x2 => decodeRow2 op b1 b2
  | 0x3 => decodeRow3 op b1 b2
  | 0x4 => decodeRow4 op b1 b2
  | 0x5 => decodeRow5 op b1 b2
  | 0x6 => decodeRow6 op b1 b2
  | 0x7 => decodeRow7 op b1 b2
  | 0x8 => decodeRow8 op b1 b2
  | 0x9 => decodeRow9 op b1 b2
  | 0xA => decodeRowA op b1 b2
  | 0xB => decodeRowB op b1 b2
  | 0xC => decodeRowC op b1 b2
  | 0xD => decodeRowD op b1 b2
  | 0xE => decodeRowE op b1 b2
  | 0xF => decodeRowF op b1 b2
  | _ => .undoc op

/-- The operand bytes of an operand, in the order of the instruction stream: low byte first (R102). -/
def Operand.bytes : Operand → List Byte
  | .imp => []
  | .acc => []
  | .imm b => [b]
  | .zp z => [z]
  | .zpx z => [z]
  | .zpy z => [z]
  | .abs a => [lowByte a, highByte a]
  | .abx a => [lowByte a, highByte a]
  | .aby a => [lowByte a, highByte a]
  | .ind a => [lowByte a, highByte a]
  | .izx z => [z]
  | .izy z => [z]
  | .rel off => [off]

/-- The bytes after the opcode that are read before the instruction executes (R101, R102). For JSR that is the low
byte of its target only (46_control.md R370), for BRK none: its padding byte is not read (R107). -/
def Instr.operandBytes : Instr → List Byte
  | .adc o => o.bytes
  | .and o => o.bytes
  | .asl o => o.bytes
  | .bcc off => [off]
  | .bcs off => [off]
  | .beq off => [off]
  | .bit o => o.bytes
  | .bmi off => [off]
  | .bne off => [off]
  | .bpl off => [off]
  | .brk => []
  | .bvc off => [off]
  | .bvs off => [off]
  | .clc => []
  | .cld => []
  | .cli => []
  | .clv => []
  | .cmp o => o.bytes
  | .cpx o => o.bytes
  | .cpy o => o.bytes
  | .dec o => o.bytes
  | .dex => []
  | .dey => []
  | .eor o => o.bytes
  | .inc o => o.bytes
  | .inx => []
  | .iny => []
  | .jmp o => o.bytes
  | .jsr lo => [lo]
  | .lda o => o.bytes
  | .ldx o => o.bytes
  | .ldy o => o.bytes
  | .lsr o => o.bytes
  | .nop => []
  | .ora o => o.bytes
  | .pha => []
  | .php => []
  | .pla => []
  | .plp => []
  | .rol o => o.bytes
  | .ror o => o.bytes
  | .rti => []
  | .rts => []
  | .sbc o => o.bytes
  | .sec => []
  | .sed => []
  | .sei => []
  | .sta o => o.bytes
  | .stx o => o.bytes
  | .sty o => o.bytes
  | .tax => []
  | .tay => []
  | .tsx => []
  | .txa => []
  | .txs => []
  | .tya => []
  | .undoc _ => []

/-- How many bytes after an opcode byte are read before the instruction executes. It depends on the opcode byte
alone (R104). -/
def operandCount (op : Byte) : Nat := (Instr.ofBytes op 0 0).operandBytes.length

/-- Why a list of bytes holds no instruction. Every opcode value decodes (R103), so only missing bytes are left. -/
inductive DecodeError where
  /-- there is no opcode byte -/
  | noOpcode
  /-- the opcode needs more bytes than the list holds -/
  | truncated (op : Byte)
  deriving DecidableEq, Repr

/-- The first instruction of a list of bytes, and the bytes after those that are read before it executes. -/
def decode : List Byte → Except DecodeError (Instr × List Byte)
  | [] => .error .noOpcode
  | op :: rest =>
    if rest.length < operandCount op then .error (.truncated op)
    else .ok (Instr.ofBytes op (rest.getD 0 0) (rest.getD 1 0), rest.drop (operandCount op))

/-- The instruction in the low `nbits` bits of `w`, numbered as spec/opcode_table.json numbers them (the opcode is
bits 7 to 0, the byte after it bits 15 to 8); every bit above them is 0. -/
def decodeTableWord (nbits w : Nat) : Option Instr :=
  let v := w % 2 ^ nbits
  match decode [BitVec.ofNat 8 v, BitVec.ofNat 8 (v / 256), BitVec.ofNat 8 (v / 65536)] with
  | .ok (i, _) => some i
  | .error _ => none

/-- The opcodes of ADC (R274). -/
def opcodesAdc : Mode → Option Byte
  | .imm => some 0x69
  | .zp => some 0x65
  | .zpx => some 0x75
  | .abs => some 0x6D
  | .abx => some 0x7D
  | .aby => some 0x79
  | .izx => some 0x61
  | .izy => some 0x71
  | _ => none

/-- The opcodes of AND (R276). -/
def opcodesAnd : Mode → Option Byte
  | .imm => some 0x29
  | .zp => some 0x25
  | .zpx => some 0x35
  | .abs => some 0x2D
  | .abx => some 0x3D
  | .aby => some 0x39
  | .izx => some 0x21
  | .izy => some 0x31
  | _ => none

/-- The opcodes of ASL (R330). -/
def opcodesAsl : Mode → Option Byte
  | .acc => some 0x0A
  | .zp => some 0x06
  | .zpx => some 0x16
  | .abs => some 0x0E
  | .abx => some 0x1E
  | _ => none

/-- The opcodes of BIT (R283). -/
def opcodesBit : Mode → Option Byte
  | .zp => some 0x24
  | .abs => some 0x2C
  | _ => none

/-- The opcodes of CMP (R280). -/
def opcodesCmp : Mode → Option Byte
  | .imm => some 0xC9
  | .zp => some 0xC5
  | .zpx => some 0xD5
  | .abs => some 0xCD
  | .abx => some 0xDD
  | .aby => some 0xD9
  | .izx => some 0xC1
  | .izy => some 0xD1
  | _ => none

/-- The opcodes of CPX (R281). -/
def opcodesCpx : Mode → Option Byte
  | .imm => some 0xE0
  | .zp => some 0xE4
  | .abs => some 0xEC
  | _ => none

/-- The opcodes of CPY (R282). -/
def opcodesCpy : Mode → Option Byte
  | .imm => some 0xC0
  | .zp => some 0xC4
  | .abs => some 0xCC
  | _ => none

/-- The opcodes of DEC (R285). -/
def opcodesDec : Mode → Option Byte
  | .zp => some 0xC6
  | .zpx => some 0xD6
  | .abs => some 0xCE
  | .abx => some 0xDE
  | _ => none

/-- The opcodes of EOR (R278). -/
def opcodesEor : Mode → Option Byte
  | .imm => some 0x49
  | .zp => some 0x45
  | .zpx => some 0x55
  | .abs => some 0x4D
  | .abx => some 0x5D
  | .aby => some 0x59
  | .izx => some 0x41
  | .izy => some 0x51
  | _ => none

/-- The opcodes of INC (R284). -/
def opcodesInc : Mode → Option Byte
  | .zp => some 0xE6
  | .zpx => some 0xF6
  | .abs => some 0xEE
  | .abx => some 0xFE
  | _ => none

/-- The opcodes of JMP (R369). -/
def opcodesJmp : Mode → Option Byte
  | .abs => some 0x4C
  | .ind => some 0x6C
  | _ => none

/-- The opcodes of LDA (R210). -/
def opcodesLda : Mode → Option Byte
  | .imm => some 0xA9
  | .zp => some 0xA5
  | .zpx => some 0xB5
  | .abs => some 0xAD
  | .abx => some 0xBD
  | .aby => some 0xB9
  | .izx => some 0xA1
  | .izy => some 0xB1
  | _ => none

/-- The opcodes of LDX (R211). -/
def opcodesLdx : Mode → Option Byte
  | .imm => some 0xA2
  | .zp => some 0xA6
  | .zpy => some 0xB6
  | .abs => some 0xAE
  | .aby => some 0xBE
  | _ => none

/-- The opcodes of LDY (R212). -/
def opcodesLdy : Mode → Option Byte
  | .imm => some 0xA0
  | .zp => some 0xA4
  | .zpx => some 0xB4
  | .abs => some 0xAC
  | .abx => some 0xBC
  | _ => none

/-- The opcodes of LSR (R331). -/
def opcodesLsr : Mode → Option Byte
  | .acc => some 0x4A
  | .zp => some 0x46
  | .zpx => some 0x56
  | .abs => some 0x4E
  | .abx => some 0x5E
  | _ => none

/-- The opcodes of ORA (R277). -/
def opcodesOra : Mode → Option Byte
  | .imm => some 0x09
  | .zp => some 0x05
  | .zpx => some 0x15
  | .abs => some 0x0D
  | .abx => some 0x1D
  | .aby => some 0x19
  | .izx => some 0x01
  | .izy => some 0x11
  | _ => none

/-- The opcodes of ROL (R332). -/
def opcodesRol : Mode → Option Byte
  | .acc => some 0x2A
  | .zp => some 0x26
  | .zpx => some 0x36
  | .abs => some 0x2E
  | .abx => some 0x3E
  | _ => none

/-- The opcodes of ROR (R333). -/
def opcodesRor : Mode → Option Byte
  | .acc => some 0x6A
  | .zp => some 0x66
  | .zpx => some 0x76
  | .abs => some 0x6E
  | .abx => some 0x7E
  | _ => none

/-- The opcodes of SBC (R275). -/
def opcodesSbc : Mode → Option Byte
  | .imm => some 0xE9
  | .zp => some 0xE5
  | .zpx => some 0xF5
  | .abs => some 0xED
  | .abx => some 0xFD
  | .aby => some 0xF9
  | .izx => some 0xE1
  | .izy => some 0xF1
  | _ => none

/-- The opcodes of STA (R213). -/
def opcodesSta : Mode → Option Byte
  | .zp => some 0x85
  | .zpx => some 0x95
  | .abs => some 0x8D
  | .abx => some 0x9D
  | .aby => some 0x99
  | .izx => some 0x81
  | .izy => some 0x91
  | _ => none

/-- The opcodes of STX (R214). -/
def opcodesStx : Mode → Option Byte
  | .zp => some 0x86
  | .zpy => some 0x96
  | .abs => some 0x8E
  | _ => none

/-- The opcodes of STY (R215). -/
def opcodesSty : Mode → Option Byte
  | .zp => some 0x84
  | .zpx => some 0x94
  | .abs => some 0x8C
  | _ => none

/-- The opcode byte of an instruction (30_encoding.md R105 and the instruction rules' tables); `none` for a form the
hardware does not have. -/
def Instr.opcode : Instr → Option Byte
  | .adc o => opcodesAdc o.mode
  | .and o => opcodesAnd o.mode
  | .asl o => opcodesAsl o.mode
  | .bcc _ => some 0x90
  | .bcs _ => some 0xB0
  | .beq _ => some 0xF0
  | .bit o => opcodesBit o.mode
  | .bmi _ => some 0x30
  | .bne _ => some 0xD0
  | .bpl _ => some 0x10
  | .brk => some 0x00
  | .bvc _ => some 0x50
  | .bvs _ => some 0x70
  | .clc => some 0x18
  | .cld => some 0xD8
  | .cli => some 0x58
  | .clv => some 0xB8
  | .cmp o => opcodesCmp o.mode
  | .cpx o => opcodesCpx o.mode
  | .cpy o => opcodesCpy o.mode
  | .dec o => opcodesDec o.mode
  | .dex => some 0xCA
  | .dey => some 0x88
  | .eor o => opcodesEor o.mode
  | .inc o => opcodesInc o.mode
  | .inx => some 0xE8
  | .iny => some 0xC8
  | .jmp o => opcodesJmp o.mode
  | .jsr _ => some 0x20
  | .lda o => opcodesLda o.mode
  | .ldx o => opcodesLdx o.mode
  | .ldy o => opcodesLdy o.mode
  | .lsr o => opcodesLsr o.mode
  | .nop => some 0xEA
  | .ora o => opcodesOra o.mode
  | .pha => some 0x48
  | .php => some 0x08
  | .pla => some 0x68
  | .plp => some 0x28
  | .rol o => opcodesRol o.mode
  | .ror o => opcodesRor o.mode
  | .rti => some 0x40
  | .rts => some 0x60
  | .sbc o => opcodesSbc o.mode
  | .sec => some 0x38
  | .sed => some 0xF8
  | .sei => some 0x78
  | .sta o => opcodesSta o.mode
  | .stx o => opcodesStx o.mode
  | .sty o => opcodesSty o.mode
  | .tax => some 0xAA
  | .tay => some 0xA8
  | .tsx => some 0xBA
  | .txa => some 0x8A
  | .txs => some 0x9A
  | .tya => some 0x98
  | .undoc op => if undocumentedOpcodes.contains op then some op else none

/-- The bytes of a well-formed instruction that are read before it executes; the empty list for a term that is no
instruction. -/
def encode (i : Instr) : List Byte :=
  match i.opcode with
  | some op => op :: i.operandBytes
  | none => []

/-- The length of an instruction in memory (30_encoding.md R101, R107): the opcode byte, the operand bytes read
before it executes, and for BRK the padding byte, for JSR the high byte of its target. The spec gives an undocumented
value no length (48_undocumented.md R421); the 1 it has here is the model's (log entry 17, DESIGN CHOICE), and no step uses
it. -/
def Instr.length : Instr → Nat
  | .brk => 2
  | .jsr _ => 3
  | i => 1 + i.operandBytes.length

/-- The offset byte of a branch at `p` to the target `t` (30_encoding.md R111). -/
def branchOffset (p t : Addr) : Byte := lowByte (t - (p + 2))

/-- Whether a branch at `p` can reach the target `t` (30_encoding.md R111). -/
def branchEncodable (p t : Addr) : Bool :=
  decide (-128 ≤ (t - (p + 2)).toInt) && decide ((t - (p + 2)).toInt ≤ 127)

end Sys2Proof
end

