-- ==== Sys2Proof/Config.lean ====
section
/-!
DEFINITION. What an implementation fixes and what the spec leaves free: the width of the cycle counter
(00_scope.md R8, 40_execution_loop.md R144), the answers of a bus adapter (20_memory.md R71, R91) and the register
values after power-on (70_reset_and_hazards.md R490). The free values are opaque constants without a body: no proof
can see their value.
-/

namespace Sys2Proof

/-- The five host operations (40_execution_loop.md R130). Inside a bus access the adapter may call `nmi` and `irq`;
the other three are refused there (20_memory.md R91). -/
inductive HostCall where
  | nmi
  | irq (level : Bool)
  | power (on : Bool)
  | reset
  | run (budget : Nat)
  deriving DecidableEq, Repr

/-- What the adapter does when a device window is accessed: the byte it answers (of no use to a write) and the host
operations it calls meanwhile, in order (20_memory.md R71, R89, R91). -/
structure Answer where
  value : Byte
  calls : List HostCall
  deriving DecidableEq, Repr

/-- FREE VALUE (log entry 2): the byte a device answers at a place of the history of accesses, "any `u8`, under no
law" (20_memory.md R71). -/
opaque Config.busByte : Nat → Byte

/-- FREE VALUE (log entry 2): the host operations a device calls during the access at a place of the history
(20_memory.md R91). -/
opaque Config.busCalls : Nat → List HostCall

/-- FREE VALUE (log entry 12): the `n`-th 8-bit draw of a power-on (70_reset_and_hazards.md R490). -/
opaque Config.drawByte : Nat → Byte

/-- FREE VALUE (log entry 12): the `n`-th 16-bit draw of a power-on (R490). -/
opaque Config.drawAddr : Nat → Addr

/-- FREE VALUE (log entry 12): the `n`-th one-bit draw of a power-on (R490). -/
opaque Config.drawBit : Nat → Bool

/-- By how many bits `CYCLE_WIDTH` passes 32 (log entry 6); the spec leaves the width OPEN, "at least 32"
(00_scope.md R8, 92_eei_decisions.md D21). -/
opaque Config.extraCycleBits : Nat

/-- The parameter `CYCLE_WIDTH` (00_scope.md R8). -/
def Config.cycleWidth : Nat := 32 + Config.extraCycleBits

/-- Whether a count, or a budget, fits in `CYCLE_WIDTH` bits (40_execution_loop.md R144). The first test is implied
by the second (`CYCLE_WIDTH` is at least 32) and is written so that small counts can be evaluated. -/
def Config.fits (n : Nat) : Bool :=
  decide (n < 2 ^ 32) || decide (n < 2 ^ Config.cycleWidth)

end Sys2Proof
end

