-- ==== Sys2Proof/Machine/State.lean ====
section
/-!
DEFINITION. The state of the machine as plain data: the CPU state record of 10_state.md R30, the memory behind the bus
adapter (20_memory.md R71), the history of accesses the spec has the model record (R71, R72), and the model's own
fields for the adapter's open answers and the power-on draws (log entries 2 and 12). With it the reasons a step can
stop, and the state after reset.
-/

namespace Sys2Proof.Machine

open Sys2Proof

/-- The six stored flags (10_state.md R37). The unused bit and the break bit are not stored (R45, R46). -/
structure Flags where
  /-- negative (R39) -/
  n : Bool
  /-- overflow (R40) -/
  v : Bool
  /-- decimal (R41) -/
  d : Bool
  /-- interrupt disable (R42) -/
  i : Bool
  /-- zero (R43) -/
  z : Bool
  /-- carry (R44) -/
  c : Bool
  deriving DecidableEq, Repr

/-- One access of the bus, always one byte (20_memory.md R73): what was read or written where. -/
inductive Access where
  | read (a : Addr) (v : Byte)
  | write (a : Addr) (v : Byte)
  deriving DecidableEq, Repr

/-- A range of addresses, both ends in it, that a device answers and not plain RAM (log entry 2). -/
structure Window where
  first : Addr
  last : Addr
  deriving DecidableEq, Repr

/-- Memory behind the adapter: cells in rising order of address, none equal to what an unlisted address reads as
(`Memory.unlisted` and `Memory.wf` in Machine/Ops.lean). -/
abbrev Memory := List Host.Cell

/-- FAULTS: none. "The engine raises no recoverable errors" (60_exceptions.md R440): no instruction, access or event
of this core stops the machine with a fault, so the type has no constructor and nothing raises one. -/
inductive Fault where
  deriving DecidableEq, Repr

/-- REFUSALS: where the spec has the model say nothing (40_execution_loop.md R141), and where a term is no instruction. -/
inductive Refusal where
  /-- Raised by `exec` for an instruction that has no meaning yet. Safe: the model says nothing. -/
  | notModelled (mnemonic : String)
  /-- Raised by the meaning of `undoc`: an undocumented opcode value, and the address it was fetched from
  (48_undocumented.md R422). Safe: the spec gives it no meaning. -/
  | undocumentedOpcode (op : Byte) (addr : Addr)
  /-- Raised at the end of a step whose cost would take `cycles` past `CYCLE_WIDTH` bits, and by `hostRun` for a
  budget that does not fit (40_execution_loop.md R144). Safe. -/
  | cycleCounterOverflow
  /-- Raised by a step during which a device called `power`, `reset` or `run` from inside an access
  (20_memory.md R91, 70_reset_and_hazards.md R497). Safe. -/
  | reentrantHostCall (call : HostCall)
  /-- Raised by a meaning given an operand in a mode its mnemonic does not have: a term that no bytes decode to
  (log entry 11). Safe: no machine runs it. -/
  | noSuchForm
  deriving DecidableEq, Repr

/-- The state. The fields down to `refused` are the record of 10_state.md R30; `mem` and `history` are what 20_memory.md
R71 and R72 place outside the record; the last three are the model's own. -/
structure State where
  /-- PC (R35) -/
  pc : Addr
  /-- SP (R34) -/
  sp : Byte
  /-- A (R31) -/
  a : Byte
  /-- X (R32) -/
  x : Byte
  /-- Y (R33) -/
  y : Byte
  /-- N V D I Z C (R37) -/
  flags : Flags
  /-- the power flag (R47) -/
  power : Bool
  /-- the level of the IRQ input (R48) -/
  irqLine : Bool
  /-- the NMI edge latch (R49) -/
  nmiPending : Bool
  /-- the reset latch (R50) -/
  resetPending : Bool
  /-- the cycle counter of the current run (R51) -/
  cycles : Nat
  /-- the refusal mark (R30; 40_execution_loop.md R141), with its reason (log entry 8) -/
  refused : Option Refusal
  /-- the memory behind the adapter (20_memory.md R70, R71; log entry 1) -/
  mem : Memory
  /-- every access of the bus so far, newest first (20_memory.md R71, R72, R83; log entry 13) -/
  history : List Access
  /-- the addresses that are not plain RAM (log entry 2) -/
  devices : List Window
  /-- what the devices will answer to the next accesses; past its end an answer is free (log entry 2) -/
  answers : List Answer
  /-- how many power-on draws have been taken (70_reset_and_hazards.md R490; log entry 12) -/
  draws : Nat
  deriving DecidableEq, Repr

/-- The spec's default of `INIT_STATE` (10_state.md R53): every field 0 and powered off. -/
def State.initial : State where
  pc := 0x0000
  sp := 0x00
  a := 0x00
  x := 0x00
  y := 0x00
  flags := ⟨false, false, false, false, false, false⟩
  power := false
  irqLine := false
  nmiPending := false
  resetPending := false
  cycles := 0
  refused := none
  mem := []
  history := []
  devices := []
  answers := []
  draws := 0

/-- The machine right after reset: the boundary right after the reset sequence (70_reset_and_hazards.md R495), which
ran as the first step of a run over a memory with nothing listed. PC is the vector's contents, SP, I, power,
reset_pending and cycles are the spec's; A, X, Y, N, V, D, Z and C are the values of log entry 3 (DESIGN CHOICE: the spec
gives none); irq_line and nmi_pending are the initial record's (log entry 4); the history holds the sequence's two
vector reads (R494). -/
def State.reset : State where
  pc := 0x0000
  sp := 0xFD
  a := 0x00
  x := 0x00
  y := 0x00
  flags := { n := false, v := false, d := false, i := true, z := false, c := false }
  power := true
  irqLine := false
  nmiPending := false
  resetPending := false
  cycles := 7
  refused := none
  mem := []
  history := [.read 0xFFFD 0x00, .read 0xFFFC 0x00]
  devices := []
  answers := []
  draws := 0

end Sys2Proof.Machine
end

