-- ==== Sys2Proof/Machine/Flags.lean ====
section
/-!
DEFINITION. Every flag computation the spec gives: the flag byte and its write (10_state.md R45, R46), SetNZ
(00_scope.md R15), binary and NMOS decimal addition and subtraction (44_arith_logic.md R270 to R273), Compare (R279), the
bit test (R283) and the four shifts (45_shift_rotate.md R330 to R333). Each is a pure function of bytes and flags.
-/

namespace Sys2Proof.Machine

open Sys2Proof

/-- `b[k]` of a byte (00_scope.md R9). -/
def bitOf (b : Byte) (k : Nat) : Bool := b.getLsbD k

/-- A flag where it enters arithmetic: 0 or 1 (R9). -/
def carryNat (c : Bool) : Nat := if c then 1 else 0

/-- The flag byte `P` (R45): bit 5 reads 1 and bit 4 reads 0. -/
def Flags.pack (f : Flags) : Byte :=
  BitVec.ofBool f.n ++ BitVec.ofBool f.v ++ 1#1 ++ 0#1 ++
    BitVec.ofBool f.d ++ BitVec.ofBool f.i ++ BitVec.ofBool f.z ++ BitVec.ofBool f.c

/-- `SetP(b)` (R46): bits 5 and 4 are ignored. -/
def Flags.unpack (b : Byte) : Flags where
  n := bitOf b 7
  v := bitOf b 6
  d := bitOf b 3
  i := bitOf b 2
  z := bitOf b 1
  c := bitOf b 0

/-- `SetNZ(v)` (00_scope.md R15). -/
def Flags.setNZ (f : Flags) (v : Byte) : Flags := { f with n := bitOf v 7, z := v == 0 }

/-- `AddBinary(a, m, C)` (R270): the result and the flags after it. -/
def addBinary (a m : Byte) (f : Flags) : Byte × Flags :=
  let s := a.toNat + m.toNat + carryNat f.c
  let r := BitVec.ofNat 8 s
  (r, { f with
    c := decide (s > 255)
    v := (bitOf a 7 == bitOf m 7) && (bitOf r 7 != bitOf a 7)
    n := bitOf r 7
    z := r == 0 })

/-- `SubBinary(a, m, C)` (R271): the result and the flags after it; C is "not borrow". -/
def subBinary (a m : Byte) (f : Flags) : Byte × Flags :=
  let d : Int := (a.toNat : Int) - m.toNat - (1 - carryNat f.c)
  let r := BitVec.ofInt 8 d
  (r, { f with
    c := decide (d ≥ 0)
    v := (bitOf a 7 != bitOf m 7) && (bitOf r 7 != bitOf a 7)
    n := bitOf r 7
    z := r == 0 })

/-- `x AND 0xF0` of a byte, as a number (R272, R273). -/
def highNibble (b : Byte) : Nat := b.toNat / 16 * 16

/-- `x AND 0x0F` of a byte, as a number (R272, R273). -/
def lowNibble (b : Byte) : Nat := b.toNat % 16

/-- `sext` of a multiple of 16 below 256: its value as a signed byte (00_scope.md R9). -/
def signedByte (n : Nat) : Int := if n ≥ 128 then (n : Int) - 256 else n

/-- The low digit sum of the decimal addition, adjusted (R272, the first two lines). -/
def decimalAddLow (a m : Byte) (c : Bool) : Nat :=
  let al := lowNibble a + lowNibble m + carryNat c
  if al ≥ 0x0A then (al + 0x06) % 16 + 0x10 else al

/-- `DecimalAdd(a, m, C)` (R272): N and V before the high-digit adjust, Z from the binary sum. -/
def decimalAdd (a m : Byte) (f : Flags) : Byte × Flags :=
  let al := decimalAddLow a m f.c
  let s := highNibble a + highNibble m + al
  let t : Int := signedByte (highNibble a) + signedByte (highNibble m) + al
  let adjusted := if s ≥ 0xA0 then s + 0x60 else s
  (BitVec.ofNat 8 adjusted, { f with
    n := bitOf (BitVec.ofNat 8 s) 7
    v := decide (t < -128) || decide (t > 127)
    z := decide ((a.toNat + m.toNat + carryNat f.c) % 256 = 0)
    c := decide (adjusted ≥ 0x100) })

/-- The low digit difference of the decimal subtraction, adjusted (R273, the first two lines). -/
def decimalSubLow (a m : Byte) (c : Bool) : Int :=
  let al : Int := (lowNibble a : Int) - lowNibble m + carryNat c - 1
  if al < 0 then (al - 0x06) % 16 - 0x10 else al

/-- `DecimalSub(a, m, C)` (R273); it writes no flag. -/
def decimalSub (a m : Byte) (c : Bool) : Byte :=
  let s : Int := (highNibble a : Int) - highNibble m + decimalSubLow a m c
  BitVec.ofInt 8 (if s < 0 then s - 0x60 else s)

/-- The sum of ADC in the mode that D selects (R274). -/
def addWithCarry (a m : Byte) (f : Flags) : Byte × Flags :=
  if f.d then decimalAdd a m f else addBinary a m f

/-- The difference of SBC in the mode that D selects (R275): the flags are the binary subtraction's in both modes. -/
def subWithBorrow (a m : Byte) (f : Flags) : Byte × Flags :=
  let r := subBinary a m f
  if f.d then (decimalSub a m f.c, r.2) else r

/-- `Compare(r, m)` (R279): N, Z and C; V is kept. -/
def compareFlags (r m : Byte) (f : Flags) : Flags :=
  let t := r - m
  { f with c := decide (r.toNat ≥ m.toNat), n := bitOf t 7, z := t == 0 }

/-- The flags of BIT (R283): Z from `A AND M`, N and V from bits 7 and 6 of M. -/
def bitTestFlags (a m : Byte) (f : Flags) : Flags :=
  { f with z := (a &&& m) == 0, n := bitOf m 7, v := bitOf m 6 }

/-- The flags of a shift: C is the bit shifted out, N and Z come from the result (R334). -/
def shiftFlags (out : Bool) (r : Byte) (f : Flags) : Flags := { f with c := out }.setNZ r

/-- ASL (R330). -/
def shiftLeft (v : Byte) (f : Flags) : Byte × Flags :=
  let r := v <<< 1
  (r, shiftFlags (bitOf v 7) r f)

/-- LSR (R331). -/
def shiftRight (v : Byte) (f : Flags) : Byte × Flags :=
  let r := v >>> 1
  (r, shiftFlags (bitOf v 0) r f)

/-- ROL (R332): the old C enters bit 0. -/
def rotateLeft (v : Byte) (f : Flags) : Byte × Flags :=
  let r := (v <<< 1) ||| BitVec.ofNat 8 (carryNat f.c)
  (r, shiftFlags (bitOf v 7) r f)

/-- ROR (R333): the old C enters bit 7. -/
def rotateRight (v : Byte) (f : Flags) : Byte × Flags :=
  let r := (v >>> 1) ||| (BitVec.ofNat 8 (carryNat f.c) <<< 7)
  (r, shiftFlags (bitOf v 0) r f)

/-- INC (R284): the result and the flags N, Z from it. -/
def incrementByte (v : Byte) (f : Flags) : Byte × Flags :=
  let r := v + 1
  (r, f.setNZ r)

/-- DEC (R285). -/
def decrementByte (v : Byte) (f : Flags) : Byte × Flags :=
  let r := v - 1
  (r, f.setNZ r)

end Sys2Proof.Machine
end

