-- ==== Sys2Proof/Machine/Ops.lean ====
section
/-!
DEFINITION. The named operations over memory and registers: the canonical memory, the bus accesses with the devices'
answers (20_memory.md R71, R72, R89, R91), the stack (R76, R77), the end of a step (40_execution_loop.md R136, R138,
R141, R144), and beside them taking an interrupt (60_exceptions.md R447), the return from one (46_control.md R373) and
the reset sequence (70_reset_and_hazards.md R494).
-/

namespace Sys2Proof.Machine

open Sys2Proof

/-- What every step answers. -/
abbrev Result := Host.Outcome State Fault Refusal

/-! ### Memory -/

/-- What an address that no cell lists reads as (log entry 1, DESIGN CHOICE: the spec leaves memory to the adapter). -/
def Memory.unlisted : Byte := 0x00

/-- The byte at an address. -/
def Memory.read : Memory → Nat → Byte
  | [], _ => Memory.unlisted
  | (k, v) :: rest, a => if k = a then v else Memory.read rest a

/-- The cells with every cell of address `a` taken out. -/
def Memory.erase (m : Memory) (a : Nat) : Memory := m.filter (fun cell => cell.1 != a)

/-- The cells with a cell put before the first one of a higher address. -/
def Memory.insert : Memory → Nat → Byte → Memory
  | [], a, v => [(a, v)]
  | (k, w) :: rest, a, v =>
    if a < k then (a, v) :: (k, w) :: rest else (k, w) :: Memory.insert rest a v

/-- Memory after a byte is written; writing what an unlisted address reads as takes the cell out. -/
def Memory.write (m : Memory) (a : Nat) (v : Byte) : Memory :=
  if v = Memory.unlisted then m.erase a else (m.erase a).insert a v

/-- The canonical form: addresses strictly rising and below 65,536, no cell equal to an unlisted one. -/
def Memory.wf (m : Memory) : Bool :=
  decide (m.Pairwise (fun p q => p.1 < q.1)) &&
    m.all (fun cell => decide (cell.1 < 65536) && (cell.2 != Memory.unlisted))

/-- The byte that plain RAM holds at an address, without an access of the bus. -/
def State.peek (s : State) (a : Addr) : Byte := Memory.read s.mem a.toNat

/-! ### Updates of one field -/

/-- `PC <- v` -/
def State.setPc (s : State) (v : Addr) : State := { s with pc := v }

/-- `SP <- v` -/
def State.setSp (s : State) (v : Byte) : State := { s with sp := v }

/-- `A <- v` -/
def State.setA (s : State) (v : Byte) : State := { s with a := v }

/-- `X <- v` -/
def State.setX (s : State) (v : Byte) : State := { s with x := v }

/-- `Y <- v` -/
def State.setY (s : State) (v : Byte) : State := { s with y := v }

/-- All six flags. -/
def State.setFlags (s : State) (f : Flags) : State := { s with flags := f }

/-- `SetNZ(v)` on the state (00_scope.md R15). -/
def State.setNZ (s : State) (v : Byte) : State := s.setFlags (s.flags.setNZ v)

/-- `I <- b` -/
def State.setI (s : State) (b : Bool) : State := s.setFlags { s.flags with i := b }

/-- A byte into plain RAM. -/
def State.poke (s : State) (a : Addr) (v : Byte) : State := { s with mem := s.mem.write a.toNat v }

/-- An access appended to the history (20_memory.md R71, R72). -/
def State.record (s : State) (x : Access) : State := { s with history := x :: s.history }

/-- The refusal mark set; it is never cleared, and the first reason stays (40_execution_loop.md R141). -/
def State.refuse (s : State) (r : Refusal) : State :=
  match s.refused with
  | some _ => s
  | none => { s with refused := some r }

/-! ### The bus -/

/-- Whether an address lies in a window. -/
def Window.contains (w : Window) (a : Addr) : Bool := decide (w.first ≤ a) && decide (a ≤ w.last)

/-- Whether a device, and not plain RAM, answers at an address (log entry 2). -/
def State.isDevice (s : State) (a : Addr) : Bool := s.devices.any (fun w => w.contains a)

/-- A host operation called from inside an access: `nmi` and `irq` change the latch or the line at once and are looked
at at the next boundary (60_exceptions.md R442, R443, R455); the others are refused (70_reset_and_hazards.md R497). -/
def State.callback (s : State) : HostCall → State
  | .nmi => { s with nmiPending := true }
  | .irq level => { s with irqLine := level }
  | .power on => s.refuse (.reentrantHostCall (.power on))
  | .reset => s.refuse (.reentrantHostCall .reset)
  | .run budget => s.refuse (.reentrantHostCall (.run budget))

/-- The next answer of a device: the first of `answers`, or past their end a free value of the place in the history. -/
def State.nextAnswer (s : State) : Answer :=
  match s.answers with
  | ans :: _ => ans
  | [] => { value := Config.busByte s.history.length, calls := Config.busCalls s.history.length }

/-- The state after a device has answered: its answer is used up and its calls are made. -/
def State.takeAnswer (s : State) : State :=
  s.nextAnswer.calls.foldl State.callback { s with answers := s.answers.tail }

/-- `MemRead(a, 1)` (20_memory.md R71). -/
def busRead (a : Addr) (s : State) : Byte × State :=
  if s.isDevice a then (s.nextAnswer.value, s.takeAnswer.record (.read a s.nextAnswer.value))
  else (s.peek a, s.record (.read a (s.peek a)))

/-- `MemWrite(a, 1, v)` (20_memory.md R72). -/
def busWrite (a : Addr) (v : Byte) (s : State) : State :=
  if s.isDevice a then s.takeAnswer.record (.write a v)
  else (s.poke a v).record (.write a v)

/-- `Read16(a)` (R75): the low byte first. -/
def busRead16 (a : Addr) (s : State) : Addr × State :=
  let lo := busRead a s
  let hi := busRead (a + 1) lo.2
  (joinBytes hi.1 lo.1, hi.2)

/-! ### Words and addresses -/

/-- `zext_16` (00_scope.md R9): a zero-page address. -/
def zeroPage (z : Byte) : Addr := z.setWidth 16

/-- `sext_16` (R9). -/
def signExtend16 (b : Byte) : Addr := b.signExtend 16

/-- Whether two addresses lie in different pages (00_scope.md, glossary). -/
def otherPage (a b : Addr) : Bool := highByte a != highByte b

/-- The address of a stack slot: page 1 (10_state.md R34, 20_memory.md R79). -/
def stackAddr (sp : Byte) : Addr := joinBytes 0x01 sp

/-! ### The stack -/

/-- `Push(v)` (R76). -/
def push (v : Byte) (s : State) : State :=
  let s1 := busWrite (stackAddr s.sp) v s
  s1.setSp (s1.sp - 1)

/-- `Pull()` (R77). -/
def pull (s : State) : Byte × State :=
  let s1 := s.setSp (s.sp + 1)
  busRead (stackAddr s1.sp) s1

/-! ### The end of a step -/

/-- The end of a step of a given cost: refused if a device has made a forbidden call during it, refused if the counter
would not hold the cost, else the next state with the cost counted, once, after the last access
(40_execution_loop.md R138, R141, R144; log entry 9). -/
def finish (cost : Nat) (s : State) : Result :=
  match s.refused with
  | some r => .refused r
  | none =>
    if Config.fits (s.cycles + cost) then .next { s with cycles := s.cycles + cost }
    else .refused .cycleCounterOverflow

/-- The meaning of a term that is an instruction, and a refusal for one that is not (log entry 11). -/
def formed (i : Instr) (k : Result) : Result := if i.wellFormed then k else .refused .noSuchForm

/-! ### Interrupts and reset -/

/-- The NMI vector (20_memory.md R79). -/
def nmiVector : Addr := 0xFFFA

/-- The RESET vector (R79, R80). -/
def resetVector : Addr := 0xFFFC

/-- The IRQ and BRK vector (R79). -/
def irqVector : Addr := 0xFFFE

/-- The cost of a service sequence, of the reset sequence and of BRK (40_execution_loop.md R136). -/
def serviceCost : Nat := 7

/-- The byte a service pushes: `P | (b << 4)` (60_exceptions.md R447). -/
def pushedFlags (b : Bool) (f : Flags) : Byte :=
  f.pack ||| (BitVec.ofNat 8 (carryNat b) <<< 4)

/-- TAKING AN INTERRUPT: `Service(vec, b)` (60_exceptions.md R447), used by NMI, IRQ and BRK. PC goes to the stack high
byte first, then the flag byte with the break bit `b`; I is set; PC is loaded from the vector. D is not changed. -/
def service (vec : Addr) (b : Bool) (s : State) : State :=
  let s1 := push (highByte s.pc) s
  let s2 := push (lowByte s.pc) s1
  let s3 := push (pushedFlags b s.flags) s2
  let s4 := s3.setI true
  let target := busRead16 vec s4
  target.2.setPc target.1

/-- The return from an interrupt: the part of RTI that undoes `service` (46_control.md R373). -/
def returnFromService (s : State) : State :=
  let p := pull s
  let s1 := p.2.setFlags (Flags.unpack p.1)
  let lo := pull s1
  let hi := pull lo.2
  hi.2.setPc (joinBytes hi.1 lo.1)

/-- The NMI service (60_exceptions.md R445): the latch is consumed first, so a pulse during the sequence is kept. -/
def nmiService (s : State) : State := service nmiVector false { s with nmiPending := false }

/-- The IRQ service (R446): the line is not lowered. -/
def irqService (s : State) : State := service irqVector false s

/-- The reset sequence (70_reset_and_hazards.md R494). -/
def resetSequence (s : State) : State :=
  let s1 := { s with resetPending := false }
  let s2 := (s1.setSp 0xFD).setI true
  let target := busRead16 resetVector s2
  target.2.setPc target.1

/-- What a boundary finds to do (40_execution_loop.md R133). -/
inductive Event where
  | reset
  | nmi
  | irq
  | instruction
  deriving DecidableEq, Repr

/-- The interrupt controller at a boundary: RESET over NMI over IRQ, and I masks IRQ only (40_execution_loop.md R133,
60_exceptions.md R450). -/
def boundaryEvent (s : State) : Event :=
  if s.resetPending then .reset
  else if s.nmiPending then .nmi
  else if s.irqLine && !s.flags.i then .irq
  else .instruction

/-! ### Fetching an instruction -/

/-- The byte at PC, and PC advanced (40_execution_loop.md R134, 10_state.md R35). -/
def fetchByte (s : State) : Byte × State :=
  let r := busRead s.pc s
  (r.1, r.2.setPc (r.2.pc + 1))

/-- The next `n` bytes of the instruction stream. -/
def fetchBytes : Nat → State → List Byte × State
  | 0, s => ([], s)
  | n + 1, s =>
    let b := fetchByte s
    let rest := fetchBytes n b.2
    (b.1 :: rest.1, rest.2)

/-- An instruction and the state after the fetch of its bytes. -/
structure Fetched where
  instr : Instr
  state : State
  deriving DecidableEq, Repr

/-- The fetch of an instruction: the opcode byte, then the operand bytes its opcode says are read before it executes
(40_execution_loop.md R134, 41_addressing_modes.md R186); none for an undocumented opcode (48_undocumented.md R422). -/
def fetchInstr (s : State) : Fetched :=
  let op := fetchByte s
  let rest := fetchBytes (operandCount op.1) op.2
  { instr := Instr.ofBytes op.1 (rest.1.getD 0 0) (rest.1.getD 1 0), state := rest.2 }

/-- The bytes `bs` placed in plain RAM from an address on, modulo 65,536. -/
def State.pokes (s : State) (a : Addr) : List Byte → State
  | [] => s
  | b :: rest => (s.poke a b).pokes (a + 1) rest

end Sys2Proof.Machine
end

