-- ==== Sys2Proof/Machine/Operands.lean ====
section
/-!
DEFINITION. The addressing-mode resolver (41_addressing_modes.md R170 to R183), the page-cross cost (R184) and the three
ways an instruction uses its operand (R185), with the base cycle counts of each class and mode (the tables of
42_load_store_transfer.md to 46_control.md; 40_execution_loop.md R136).
-/

namespace Sys2Proof.Machine

open Sys2Proof

/-- What an operand names (R170). An immediate operand's byte has been read already, as the one access R186 gives that
mode, so its place holds the byte (log entry 16). -/
inductive Loc where
  | none
  | acc
  | value (b : Byte)
  | mem (ea : Addr)
  | target (t : Addr)
  deriving DecidableEq, Repr

/-- The answer of the resolver: the place, whether a page is crossed, and the state after the pointer reads. -/
structure Resolved where
  loc : Loc
  cross : Bool
  state : State
  deriving DecidableEq, Repr

/-- An absolute base plus an index register (R178, R179, R182). -/
def indexed (base : Addr) (index : Byte) (s : State) : Resolved :=
  let ea := base + zeroPage index
  { loc := .mem ea, cross := otherPage ea base, state := s }

/-- The pointer in the zero page at `p`: its second byte wraps within the page (R181, R182). -/
def zeroPagePointer (p : Byte) (s : State) : Addr × State :=
  let lo := busRead (zeroPage p) s
  let hi := busRead (zeroPage (p + 1)) lo.2
  (joinBytes hi.1 lo.1, hi.2)

/-- The pointer of JMP (abs): its second byte is read from the same page (R180). -/
def indirectPointer (ptr : Addr) (s : State) : Addr × State :=
  let lo := busRead ptr s
  let hi := busRead (joinBytes (highByte ptr) (lowByte ptr + 1)) lo.2
  (joinBytes hi.1 lo.1, hi.2)

/-- `Resolve(mode)` (R170 to R183), on a state whose PC is past the operand bytes. -/
def resolve : Operand → State → Resolved
  | .imp, s => { loc := .none, cross := false, state := s }
  | .acc, s => { loc := .acc, cross := false, state := s }
  | .imm b, s => { loc := .value b, cross := false, state := s }
  | .zp z, s => { loc := .mem (zeroPage z), cross := false, state := s }
  | .zpx z, s => { loc := .mem (zeroPage (z + s.x)), cross := false, state := s }
  | .zpy z, s => { loc := .mem (zeroPage (z + s.y)), cross := false, state := s }
  | .abs a, s => { loc := .mem a, cross := false, state := s }
  | .abx a, s => indexed a s.x s
  | .aby a, s => indexed a s.y s
  | .ind a, s =>
    let p := indirectPointer a s
    { loc := .mem p.1, cross := false, state := p.2 }
  | .izx z, s =>
    let p := zeroPagePointer (z + s.x) s
    { loc := .mem p.1, cross := false, state := p.2 }
  | .izy z, s =>
    let p := zeroPagePointer z s
    indexed p.1 p.2.y p.2
  | .rel off, s =>
    let t := s.pc + signExtend16 off
    { loc := .target t, cross := otherPage t s.pc, state := s }

/-- The value at a place: the accumulator, the immediate byte, or one read of memory (R185). A place that holds no
value (no well-formed operand of a reading instruction has one) reads as the accumulator. -/
def loadLoc : Loc → State → Byte × State
  | .value b, s => (b, s)
  | .mem ea, s => busRead ea s
  | .acc, s => (s.a, s)
  | .none, s => (s.a, s)
  | .target _, s => (s.a, s)

/-- A value into a place: the accumulator, or one write of memory (R185). -/
def storeLoc : Loc → Byte → State → State
  | .mem ea, v, s => busWrite ea v s
  | .acc, v, s => s.setA v
  | .value _, _, s => s
  | .none, _, s => s
  | .target _, _, s => s

/-- The base count of a read-class instruction in a mode (the tables of R210 to R212, R274 to R278, R280 to R283). -/
def readCycles : Mode → Nat
  | .imm => 2
  | .zp => 3
  | .zpx => 4
  | .zpy => 4
  | .abs => 4
  | .abx => 4
  | .aby => 4
  | .izx => 6
  | .izy => 5
  | .imp | .acc | .ind | .rel => 0

/-- The base count of a write-class instruction in a mode (the tables of R213 to R215). -/
def writeCycles : Mode → Nat
  | .zp => 3
  | .zpx => 4
  | .zpy => 4
  | .abs => 4
  | .abx => 5
  | .aby => 5
  | .izx => 6
  | .izy => 6
  | .imp | .acc | .imm | .ind | .rel => 0

/-- The base count of a read-modify-write instruction, and of a shift of the accumulator (the tables of R284, R285,
R330 to R333). -/
def modifyCycles : Mode → Nat
  | .acc => 2
  | .zp => 5
  | .zpx => 6
  | .abs => 6
  | .abx => 7
  | .imp | .imm | .zpy | .aby | .ind | .izx | .izy | .rel => 0

/-- The base count of JMP (the table of R369). -/
def jumpCycles : Mode → Nat
  | .abs => 3
  | .ind => 5
  | .imp | .acc | .imm | .zp | .zpx | .zpy | .abx | .aby | .izx | .izy | .rel => 0

/-- The cycle of a page crossing (R184, R360). -/
def crossCycles (cross : Bool) : Nat := if cross then 1 else 0

/-- A read-class instruction (R185): resolve, read the operand, go on with it; a page crossing costs one cycle. -/
def readClass (o : Operand) (use : Byte → State → State) (s : State) : Result :=
  let r := resolve o s
  let m := loadLoc r.loc r.state
  finish (readCycles o.mode + crossCycles r.cross) (use m.1 m.2)

/-- A write-class instruction (R185): resolve, write; the place is not read and a page crossing costs nothing. -/
def writeClass (o : Operand) (v : Byte) (s : State) : Result :=
  let r := resolve o s
  finish (writeCycles o.mode) (storeLoc r.loc v r.state)

/-- A read-modify-write instruction, or a shift of the accumulator (R185, R334): read, compute, write once, then the
flags. -/
def modifyClass (o : Operand) (f : Byte → Flags → Byte × Flags) (s : State) : Result :=
  let r := resolve o s
  let m := loadLoc r.loc r.state
  let v := f m.1 m.2.flags
  finish (modifyCycles o.mode) ((storeLoc r.loc v.1 m.2).setFlags v.2)

/-- A jump to a place: the target of a branch, or the address JMP resolved, which is not read (R170, R180). -/
def jumpTo : Loc → State → State
  | .target t, s => s.setPc t
  | .mem t, s => s.setPc t
  | .none, s => s
  | .acc, s => s
  | .value _, s => s

/-- A conditional branch (46_control.md R360): one cycle more if taken, one more still if to another page. -/
def branch (cond : Bool) (off : Byte) (s : State) : Result :=
  let r := resolve (.rel off) s
  if cond then finish (2 + (1 + crossCycles r.cross)) (jumpTo r.loc r.state)
  else finish 2 r.state

end Sys2Proof.Machine
end

