-- ==== Sys2Proof/Machine/Arith.lean ====
section
/-!
DEFINITION. Arithmetic, logic, compare, bit test, increment and decrement (44_arith_logic.md R274 to R289).
-/

namespace Sys2Proof.Machine

open Sys2Proof

/-- A and the flags from a pure operation on A, the operand and the flags. -/
def accumulate (op : Byte → Byte → Flags → Byte × Flags) (m : Byte) (t : State) : State :=
  let r := op t.a m t.flags
  (t.setA r.1).setFlags r.2

/-- ADC (R274): binary, or NMOS decimal when D is set; N, V, Z, C. -/
def execAdc (o : Operand) (s : State) : Result :=
  formed (.adc o) (readClass o (accumulate addWithCarry) s)

/-- SBC (R275): binary, or NMOS decimal when D is set; N, V, Z, C from the binary subtraction. -/
def execSbc (o : Operand) (s : State) : Result :=
  formed (.sbc o) (readClass o (accumulate subWithBorrow) s)

/-- AND (R276): N and Z from the result. -/
def execAnd (o : Operand) (s : State) : Result :=
  formed (.and o) (readClass o (fun m t => (t.setA (t.a &&& m)).setNZ (t.a &&& m)) s)

/-- ORA (R277): N and Z from the result. -/
def execOra (o : Operand) (s : State) : Result :=
  formed (.ora o) (readClass o (fun m t => (t.setA (t.a ||| m)).setNZ (t.a ||| m)) s)

/-- EOR (R278): N and Z from the result. -/
def execEor (o : Operand) (s : State) : Result :=
  formed (.eor o) (readClass o (fun m t => (t.setA (t.a ^^^ m)).setNZ (t.a ^^^ m)) s)

/-- CMP (R280): N, Z, C; A is kept. -/
def execCmp (o : Operand) (s : State) : Result :=
  formed (.cmp o) (readClass o (fun m t => t.setFlags (compareFlags t.a m t.flags)) s)

/-- CPX (R281): N, Z, C; X is kept. -/
def execCpx (o : Operand) (s : State) : Result :=
  formed (.cpx o) (readClass o (fun m t => t.setFlags (compareFlags t.x m t.flags)) s)

/-- CPY (R282): N, Z, C; Y is kept. -/
def execCpy (o : Operand) (s : State) : Result :=
  formed (.cpy o) (readClass o (fun m t => t.setFlags (compareFlags t.y m t.flags)) s)

/-- BIT (R283): Z from `A AND M`, N and V from M; A is kept. -/
def execBit (o : Operand) (s : State) : Result :=
  formed (.bit o) (readClass o (fun m t => t.setFlags (bitTestFlags t.a m t.flags)) s)

/-- INC (R284). -/
def execInc (o : Operand) (s : State) : Result :=
  formed (.inc o) (modifyClass o incrementByte s)

/-- DEC (R285). -/
def execDec (o : Operand) (s : State) : Result :=
  formed (.dec o) (modifyClass o decrementByte s)

/-- INX (R286): N and Z from the result. -/
def execInx (s : State) : Result :=
  finish 2 ((s.setX (s.x + 1)).setNZ (s.x + 1))

/-- INY (R287): N and Z from the result. -/
def execIny (s : State) : Result :=
  finish 2 ((s.setY (s.y + 1)).setNZ (s.y + 1))

/-- DEX (R288): N and Z from the result. -/
def execDex (s : State) : Result :=
  finish 2 ((s.setX (s.x - 1)).setNZ (s.x - 1))

/-- DEY (R289): N and Z from the result. -/
def execDey (s : State) : Result :=
  finish 2 ((s.setY (s.y - 1)).setNZ (s.y - 1))

end Sys2Proof.Machine
end

