-- ==== Sys2Proof/Machine/Control.lean ====
section
/-!
DEFINITION. Branches, jumps, subroutines, BRK and RTI (46_control.md R360 to R373).
-/

namespace Sys2Proof.Machine

open Sys2Proof

/-- BPL (R361): taken when N = 0. -/
def execBpl (off : Byte) (s : State) : Result :=
  branch (!s.flags.n) off s

/-- BMI (R362): taken when N = 1. -/
def execBmi (off : Byte) (s : State) : Result :=
  branch s.flags.n off s

/-- BVC (R363): taken when V = 0. -/
def execBvc (off : Byte) (s : State) : Result :=
  branch (!s.flags.v) off s

/-- BVS (R364): taken when V = 1. -/
def execBvs (off : Byte) (s : State) : Result :=
  branch s.flags.v off s

/-- BCC (R365): taken when C = 0. -/
def execBcc (off : Byte) (s : State) : Result :=
  branch (!s.flags.c) off s

/-- BCS (R366): taken when C = 1. -/
def execBcs (off : Byte) (s : State) : Result :=
  branch s.flags.c off s

/-- BNE (R367): taken when Z = 0. -/
def execBne (off : Byte) (s : State) : Result :=
  branch (!s.flags.z) off s

/-- BEQ (R368): taken when Z = 1. -/
def execBeq (off : Byte) (s : State) : Result :=
  branch s.flags.z off s

/-- JMP (R369): PC is the resolved address, which is not read. -/
def execJmp (o : Operand) (s : State) : Result :=
  let r := resolve o s
  formed (.jmp o) (finish (jumpCycles o.mode) (jumpTo r.loc r.state))

/-- JSR (R370), on the state after the fetch of the opcode and of the low byte `lo`, whose PC is the address of the
instruction's own last byte: PC is pushed, high byte first, and only then is the high byte of the target read. -/
def execJsr (lo : Byte) (s : State) : Result :=
  let s1 := push (highByte s.pc) s
  let s2 := push (lowByte s.pc) s1
  let hi := busRead s2.pc s2
  finish 6 (hi.2.setPc (joinBytes hi.1 lo))

/-- RTS (R371): the pulled address plus 1. -/
def execRts (s : State) : Result :=
  let lo := pull s
  let hi := pull lo.2
  finish 6 (hi.2.setPc (joinBytes hi.1 lo.1 + 1))

/-- BRK (R372): past its padding byte, then the service sequence with the break bit 1, whatever I is. -/
def execBrk (s : State) : Result :=
  finish serviceCost (service irqVector true (s.setPc (s.pc + 1)))

/-- RTI (R373): the flag byte, then PC, with no 1 added. -/
def execRti (s : State) : Result :=
  finish 6 (returnFromService s)

end Sys2Proof.Machine
end

