-- ==== Sys2Proof/Machine/FlagOps.lean ====
section
/-!
DEFINITION. The flag instructions and NOP (47_flags_nop.md R400 to R407).
-/

namespace Sys2Proof.Machine

open Sys2Proof

/-- CLC (R400). -/
def execClc (s : State) : Result :=
  finish 2 (s.setFlags { s.flags with c := false })

/-- SEC (R401). -/
def execSec (s : State) : Result :=
  finish 2 (s.setFlags { s.flags with c := true })

/-- CLI (R402). -/
def execCli (s : State) : Result :=
  finish 2 (s.setFlags { s.flags with i := false })

/-- SEI (R403). -/
def execSei (s : State) : Result :=
  finish 2 (s.setFlags { s.flags with i := true })

/-- CLD (R404). -/
def execCld (s : State) : Result :=
  finish 2 (s.setFlags { s.flags with d := false })

/-- SED (R405). -/
def execSed (s : State) : Result :=
  finish 2 (s.setFlags { s.flags with d := true })

/-- CLV (R406). -/
def execClv (s : State) : Result :=
  finish 2 (s.setFlags { s.flags with v := false })

/-- NOP (R407): no effect but the fetch and the 2 cycles. -/
def execNop (s : State) : Result :=
  finish 2 s

end Sys2Proof.Machine
end

