-- ==== Sys2Proof/Machine/Loads.lean ====
section
/-!
DEFINITION. Loads, stores and register transfers (42_load_store_transfer.md R210 to R221). Each meaning runs on the state
whose PC is past the bytes `encode` gives the instruction.
-/

namespace Sys2Proof.Machine

open Sys2Proof

/-- LDA (R210): N and Z from the value loaded. -/
def execLda (o : Operand) (s : State) : Result :=
  formed (.lda o) (readClass o (fun m t => (t.setA m).setNZ m) s)

/-- LDX (R211): N and Z from the value loaded. -/
def execLdx (o : Operand) (s : State) : Result :=
  formed (.ldx o) (readClass o (fun m t => (t.setX m).setNZ m) s)

/-- LDY (R212): N and Z from the value loaded. -/
def execLdy (o : Operand) (s : State) : Result :=
  formed (.ldy o) (readClass o (fun m t => (t.setY m).setNZ m) s)

/-- STA (R213): no flag; the place is not read. -/
def execSta (o : Operand) (s : State) : Result :=
  formed (.sta o) (writeClass o s.a s)

/-- STX (R214). -/
def execStx (o : Operand) (s : State) : Result :=
  formed (.stx o) (writeClass o s.x s)

/-- STY (R215). -/
def execSty (o : Operand) (s : State) : Result :=
  formed (.sty o) (writeClass o s.y s)

/-- TAX (R216): N and Z from the value moved. -/
def execTax (s : State) : Result :=
  finish 2 ((s.setX s.a).setNZ s.a)

/-- TAY (R217). -/
def execTay (s : State) : Result :=
  finish 2 ((s.setY s.a).setNZ s.a)

/-- TXA (R218). -/
def execTxa (s : State) : Result :=
  finish 2 ((s.setA s.x).setNZ s.x)

/-- TYA (R219). -/
def execTya (s : State) : Result :=
  finish 2 ((s.setA s.y).setNZ s.y)

/-- TSX (R220). -/
def execTsx (s : State) : Result :=
  finish 2 ((s.setX s.sp).setNZ s.sp)

/-- TXS (R221): no flag, unlike the other transfers. -/
def execTxs (s : State) : Result :=
  finish 2 (s.setSp s.x)

end Sys2Proof.Machine
end

