-- ==== Sys2Proof/Machine/Shift.lean ====
section
/-!
DEFINITION. Shifts and rotates (45_shift_rotate.md R330 to R334), of the accumulator or of a memory byte.
-/

namespace Sys2Proof.Machine

open Sys2Proof

/-- ASL (R330). -/
def execAsl (o : Operand) (s : State) : Result :=
  formed (.asl o) (modifyClass o shiftLeft s)

/-- LSR (R331). -/
def execLsr (o : Operand) (s : State) : Result :=
  formed (.lsr o) (modifyClass o shiftRight s)

/-- ROL (R332). -/
def execRol (o : Operand) (s : State) : Result :=
  formed (.rol o) (modifyClass o rotateLeft s)

/-- ROR (R333). -/
def execRor (o : Operand) (s : State) : Result :=
  formed (.ror o) (modifyClass o rotateRight s)

end Sys2Proof.Machine
end

