-- ==== Sys2Proof/Machine/Stack.lean ====
section
/-!
DEFINITION. The stack instructions (43_stack.md R250 to R253).
-/

namespace Sys2Proof.Machine

open Sys2Proof

/-- PHA (R250). -/
def execPha (s : State) : Result :=
  finish 3 (push s.a s)

/-- PHP (R251): the pushed copy has bits 5 and 4 set; the flags are kept. -/
def execPhp (s : State) : Result :=
  finish 3 (push (s.flags.pack ||| 0x30) s)

/-- PLA (R252): N and Z from the pulled byte. -/
def execPla (s : State) : Result :=
  let v := pull s
  finish 4 ((v.2.setA v.1).setNZ v.1)

/-- PLP (R253): all six flags from the pulled byte, whose bits 5 and 4 are ignored. -/
def execPlp (s : State) : Result :=
  let v := pull s
  finish 4 (v.2.setFlags (Flags.unpack v.1))

end Sys2Proof.Machine
end

