-- ==== Sys2Proof/Machine/Undocumented.lean ====
section
/-!
DEFINITION. The 105 undocumented opcode values (48_undocumented.md R420 to R422).
-/

namespace Sys2Proof.Machine

open Sys2Proof

/-- UNDOC (R422): the refusal of an undocumented value, naming it and the address it was fetched from. No operand byte has
been read. -/
def execUndoc (op : Byte) (s : State) : Result :=
  .refused (.undocumentedOpcode op (s.pc - 1))

end Sys2Proof.Machine
end

