-- ==== Sys2Proof/Machine/Boundary.lean ====
section
/-!
DEFINITION. One step of the core from a boundary (40_execution_loop.md R133, R134): the interrupt controller first, then
the fetch and the execution of an instruction; and where the next instruction is fetched from.
-/

namespace Sys2Proof.Machine

open Sys2Proof

/-- An instruction step (R134): fetch, then execute. A forbidden call made by a device during the fetch ends the step
(R141). -/
def instructionStep (s : State) : Result :=
  let f := fetchInstr s
  match f.state.refused with
  | some r => .refused r
  | none => exec f.instr f.state

/-- The step of a powered core that is not refused (R133). -/
def poweredStep (s : State) : Result :=
  match boundaryEvent s with
  | .reset => finish serviceCost (resetSequence s)
  | .nmi => finish serviceCost (nmiService s)
  | .irq => finish serviceCost (irqService s)
  | .instruction => instructionStep s

/-- A step from any state: none exists from a refused state (R141); a core without power stays as it is, since no step
runs and no field changes (R131; log entry 7). -/
def boundaryStep (s : State) : Result :=
  match s.refused with
  | some r => .refused r
  | none => if s.power then poweredStep s else .next s

/-- The bytes of an instruction given as a number of `nbits` bits, the first byte lowest; three bytes, the longest
instruction. -/
def wordBytes (nbits w : Nat) : List Byte :=
  let v := w % 2 ^ nbits
  [BitVec.ofNat 8 v, BitVec.ofNat 8 (v / 256), BitVec.ofNat 8 (v / 65536)]

/-- A state whose next step fetches at PC: powered, no event to serve, not refused (log entry 5). -/
def State.readyToFetch (s : State) : State :=
  { s with power := true, resetPending := false, nmiPending := false, irqLine := false, refused := none }

/-- Plain RAM, and no device, at the three addresses from `a` on (log entry 5). -/
def State.withoutDevicesAt (s : State) (a : Addr) : State :=
  { s with devices := s.devices.filter (fun w => !(w.contains a || w.contains (a + 1) || w.contains (a + 2))) }

end Sys2Proof.Machine
end

