-- ==== Sys2Proof/Machine/Step.lean ====
section
/-!
DEFINITION. The step function (40_execution_loop.md R133), and the placing of an instruction where it fetches.
-/

namespace Sys2Proof.Machine

open Sys2Proof

/-- One step of the machine: one whole service sequence or one whole instruction (R133). -/
def step : State → Host.Outcome State Fault Refusal := boundaryStep

/-- The state with an instruction placed where `step` fetches its next one, numbered as spec/opcode_table.json numbers
its bits: the three bytes at PC are plain RAM holding it, and the state is one whose next step fetches (log entry 5). -/
def State.withFetchWord (s : State) (nbits w : Nat) : State :=
  (s.readyToFetch.withoutDevicesAt s.pc).pokes s.pc (wordBytes nbits w)

end Sys2Proof.Machine
end

