-- ==== Sys2Proof/Machine/HostOps.lean ====
section
/-!
DEFINITION. The five operations of the host (40_execution_loop.md R130): `power` (70_reset_and_hazards.md R490, R491),
`reset` (R493), `nmi` and `irq` (60_exceptions.md R442, R443) and `run` (40_execution_loop.md R131, R132, R144).
-/

namespace Sys2Proof.Machine

open Sys2Proof

/-- The six flags as draws, from the `n`-th on. -/
def drawFlags (n : Nat) : Flags where
  n := Config.drawBit n
  v := Config.drawBit (n + 1)
  d := Config.drawBit (n + 2)
  i := Config.drawBit (n + 3)
  z := Config.drawBit (n + 4)
  c := Config.drawBit (n + 5)

/-- `power(state, on)` (R490, R491): power-on makes every register and flag a draw, and power-off keeps them. Turning on
what is on changes nothing. On a record already refused the spec defines no result (48_undocumented.md R422): there the
same write, with the mark kept, is the model's (log entry 18, DESIGN CHOICE). -/
def hostPower (on : Bool) (s : State) : State :=
  if on then
    if s.power then s
    else
      { s with
        power := true
        pc := Config.drawAddr s.draws
        sp := Config.drawByte s.draws
        a := Config.drawByte (s.draws + 1)
        x := Config.drawByte (s.draws + 2)
        y := Config.drawByte (s.draws + 3)
        flags := drawFlags s.draws
        draws := s.draws + 6 }
  else { s with power := false }

/-- `reset(state)` (R493): the latch is set and nothing else changes. On a refused record too (log entry 18, DESIGN CHOICE). -/
def hostReset (s : State) : State := { s with resetPending := true }

/-- `nmi(state)` (60_exceptions.md R442): the latch is set. On a refused record too (log entry 18, DESIGN CHOICE). -/
def hostNmi (s : State) : State := { s with nmiPending := true }

/-- `irq(state, level)` (R443): the line is set. On a refused record too (log entry 18, DESIGN CHOICE). -/
def hostIrq (level : Bool) (s : State) : State := { s with irqLine := level }

/-- How `run` ends: with a count and the record, or refused with the marked record (40_execution_loop.md R141). -/
inductive RunResult where
  | returned (cycles : Nat) (s : State)
  | refused (r : Refusal) (s : State)
  deriving DecidableEq, Repr

/-- The record a refused step leaves: marked, and for an undocumented opcode with the opcode fetched and PC advanced
(48_undocumented.md R422; log entry 8). -/
def refusedRecord (r : Refusal) (s : State) : State :=
  match r with
  | .undocumentedOpcode _ _ => (fetchByte s).2.refuse r
  | _ => s.refuse r

/-- The loop of `run` (R132): steps until the count reaches the budget. The first argument bounds the number of steps;
the budget itself is enough, since every step costs at least 2 (R137). -/
def runLoop : Nat → Nat → State → RunResult
  | 0, _, s => .returned s.cycles s
  | fuel + 1, budget, s =>
    if s.cycles < budget then
      match step s with
      | .next t => runLoop fuel budget t
      | .refused r => .refused r (refusedRecord r s)
      | .fault f => nomatch f
    else .returned s.cycles s

/-- `run(state, budget)` (R131, R132, R144): nothing on a core without power; else the counter is zeroed and steps run
until it reaches the budget. On a record already refused, with or without power, it answers the same refusal and record
(log entry 8, DESIGN CHOICE: R422 defines no result there). -/
def hostRun (budget : Nat) (s : State) : RunResult :=
  match s.refused with
  | some r => .refused r s
  | none =>
    if s.power then
      if Config.fits budget then runLoop budget budget { s with cycles := 0 }
      else .refused .cycleCounterOverflow (s.refuse .cycleCounterOverflow)
    else .returned 0 s

end Sys2Proof.Machine
end

