-- ==== Sys2Proof/Safety.lean ====
section
/-!
DEFINITION. The terms claims are stated in: when a state can run an instruction to its end (`Ready`), the invariant of
the machine (`Inv`), and what an operand denotes on plain RAM, written as plain functions of registers and memory
(41_addressing_modes.md R171 to R183), beside the resolver that reads it through the bus.
-/

namespace Sys2Proof.Machine

open Sys2Proof

/-- The state runs any one step to its end: the adapter is plain RAM (20_memory.md R89: the premise a claim takes when it
depends on the absence of side effects), the state is not refused (40_execution_loop.md R141), and the counter has room
for the dearest step (R137, R144). -/
abbrev State.Ready (s : State) : Prop :=
  s.devices = [] ∧ s.refused = none ∧ Config.fits (s.cycles + 7) = true

/-- The invariant: memory keeps its canonical form, the counter fits its width (R144), and the state is not refused. -/
abbrev State.Inv (s : State) : Prop :=
  s.mem.wf = true ∧ Config.fits s.cycles = true ∧ s.refused = none

/-- The host operations that a device may call from inside an access without ending the run (20_memory.md R91). -/
def allowedInAccess : HostCall → Bool
  | .nmi => true
  | .irq _ => true
  | .power _ => false
  | .reset => false
  | .run _ => false

/-- The 16-bit word in plain RAM at two addresses, low byte first. -/
def State.word (s : State) (lo hi : Addr) : Addr := joinBytes (s.peek hi) (s.peek lo)

/-- The address an operand names on plain RAM, for the modes that name one (R174 to R182). -/
def effectiveAddress : Operand → State → Option Addr
  | .imp, _ => none
  | .acc, _ => none
  | .imm _, _ => none
  | .zp z, _ => some (zeroPage z)
  | .zpx z, s => some (zeroPage (z + s.x))
  | .zpy z, s => some (zeroPage (z + s.y))
  | .abs a, _ => some a
  | .abx a, s => some (a + zeroPage s.x)
  | .aby a, s => some (a + zeroPage s.y)
  | .ind a, s => some (s.word a (joinBytes (highByte a) (lowByte a + 1)))
  | .izx z, s => some (s.word (zeroPage (z + s.x)) (zeroPage (z + s.x + 1)))
  | .izy z, s => some (s.word (zeroPage z) (zeroPage (z + 1)) + zeroPage s.y)
  | .rel _, _ => none

/-- Whether the indexing of an operand crosses a page on plain RAM (R178, R179, R182). -/
def pageCross : Operand → State → Bool
  | .abx a, s => highByte (a + zeroPage s.x) != highByte a
  | .aby a, s => highByte (a + zeroPage s.y) != highByte a
  | .izy z, s =>
    highByte (s.word (zeroPage z) (zeroPage (z + 1)) + zeroPage s.y) != highByte (s.word (zeroPage z) (zeroPage (z + 1)))
  | _, _ => false

/-- A read of plain RAM as the history records it. -/
def State.readOf (s : State) (a : Addr) : Access := .read a (s.peek a)

/-- The pointer reads of an operand on plain RAM, newest first (R186). -/
def pointerReads : Operand → State → List Access
  | .ind a, s => [s.readOf (joinBytes (highByte a) (lowByte a + 1)), s.readOf a]
  | .izx z, s => [s.readOf (zeroPage (z + s.x + 1)), s.readOf (zeroPage (z + s.x))]
  | .izy z, s => [s.readOf (zeroPage (z + 1)), s.readOf (zeroPage z)]
  | _, _ => []

/-- The operand byte on plain RAM: the immediate byte, the byte at the effective address, or the accumulator. -/
def operandValue (o : Operand) (s : State) : Byte :=
  match o with
  | .imm b => b
  | o =>
    match effectiveAddress o s with
    | some ea => s.peek ea
    | none => s.a

/-- The reads that fetch the operand byte on plain RAM after the instruction's own bytes, newest first (R186). -/
def operandReads (o : Operand) (s : State) : List Access :=
  match effectiveAddress o s with
  | some ea => s.readOf ea :: pointerReads o s
  | none => []

/-- The reads of the `n` bytes of the instruction stream at PC, newest first. -/
def fetchReads : Nat → State → List Access
  | 0, _ => []
  | n + 1, s => s.readOf (s.pc + BitVec.ofNat 16 n) :: fetchReads n s

/-- The state at which an instruction of `n` bytes executes on plain RAM: its bytes fetched, PC past them. -/
def State.fetched (s : State) (n : Nat) : State :=
  { s with pc := s.pc + BitVec.ofNat 16 n, history := fetchReads n s ++ s.history }

/-- The state with the decimal flag set to a value. -/
def State.withD (s : State) (b : Bool) : State := s.setFlags { s.flags with d := b }

/-- The instructions that write PC themselves (46_control.md): all others leave it past their bytes (10_state.md R36). -/
def isControl : Instr → Bool
  | .bcc _ | .bcs _ | .beq _ | .bmi _ | .bne _ | .bpl _ | .bvc _ | .bvs _ => true
  | .jmp _ | .jsr _ | .rts | .brk | .rti => true
  | _ => false

/-- The state after `Service(vec, b)` on plain RAM, field by field (60_exceptions.md R447): the three pushed bytes, SP
lower by 3, I set, PC the word at the vector. The vector lies outside the stack page. -/
def State.servicedOnRam (s : State) (vec : Addr) (b : Bool) : State :=
  let flagByte := if b then s.flags.pack ||| 0x10 else s.flags.pack
  { s with
    pc := s.word vec (vec + 1)
    sp := s.sp - 3
    flags := { s.flags with i := true }
    mem := ((s.mem.write (stackAddr s.sp).toNat (highByte s.pc)).write (stackAddr (s.sp - 1)).toNat
      (lowByte s.pc)).write (stackAddr (s.sp - 2)).toNat flagByte
    history := [s.readOf (vec + 1), s.readOf vec, .write (stackAddr (s.sp - 2)) flagByte,
      .write (stackAddr (s.sp - 1)) (lowByte s.pc), .write (stackAddr s.sp) (highByte s.pc)] ++ s.history }

/-- The state with a step's cost counted (40_execution_loop.md R138). -/
def State.costing (s : State) (n : Nat) : State := { s with cycles := s.cycles + n }

/-! ### What a step leaves alone -/

/-- No field of the control state has changed, but for what a device may have called: on plain RAM the NMI latch and the
IRQ line are as before too (10_state.md R47 to R50). -/
def KeepsControl (s t : State) : Prop :=
  t.power = s.power ∧ t.resetPending = s.resetPending ∧ t.refused = s.refused ∧ t.devices = s.devices ∧
    t.draws = s.draws ∧
    (s.devices = [] → t.nmiPending = s.nmiPending ∧ t.irqLine = s.irqLine ∧ t.answers = s.answers)

/-- Every byte of memory reads as before. -/
def KeepsMemory (s t : State) : Prop := ∀ b : Addr, t.peek b = s.peek b

/-- Every byte of memory but those at the addresses of a list reads as before. -/
def KeepsMemoryBut (l : List Addr) (s t : State) : Prop := ∀ b : Addr, b ∉ l → t.peek b = s.peek b

/-- V, D, I and C are as before: what an instruction that writes N and Z alone keeps. -/
def KeepsVDIC (s t : State) : Prop :=
  t.flags.v = s.flags.v ∧ t.flags.d = s.flags.d ∧ t.flags.i = s.flags.i ∧ t.flags.c = s.flags.c

/-- A, X, Y and SP are as before. -/
def KeepsRegisters (s t : State) : Prop := t.a = s.a ∧ t.x = s.x ∧ t.y = s.y ∧ t.sp = s.sp

/-- The flags an instruction may write (the flag lines of the instruction rules; 10_state.md R39 to R44), true where it
may. -/
def flagsWritten : Instr → Flags
  | .adc _ | .sbc _ => ⟨true, true, false, false, true, true⟩
  | .cmp _ | .cpx _ | .cpy _ => ⟨true, false, false, false, true, true⟩
  | .asl _ | .lsr _ | .rol _ | .ror _ => ⟨true, false, false, false, true, true⟩
  | .bit _ => ⟨true, true, false, false, true, false⟩
  | .lda _ | .ldx _ | .ldy _ | .and _ | .ora _ | .eor _ | .inc _ | .dec _ => ⟨true, false, false, false, true, false⟩
  | .tax | .tay | .txa | .tya | .tsx | .pla => ⟨true, false, false, false, true, false⟩
  | .inx | .iny | .dex | .dey => ⟨true, false, false, false, true, false⟩
  | .plp | .rti => ⟨true, true, true, true, true, true⟩
  | .clc | .sec => ⟨false, false, false, false, false, true⟩
  | .cli | .sei | .brk => ⟨false, false, false, true, false, false⟩
  | .cld | .sed => ⟨false, false, true, false, false, false⟩
  | .clv => ⟨false, true, false, false, false, false⟩
  | _ => ⟨false, false, false, false, false, false⟩

/-- The flags that the step from a state may write: those of the instruction it fetches, or I alone for a service or
reset sequence. -/
def State.stepFlagsWritten (s : State) : Flags :=
  match boundaryEvent s with
  | .instruction => flagsWritten (fetchInstr s).instr
  | _ => ⟨false, false, false, true, false, false⟩

end Sys2Proof.Machine
end

