-- ==== Sys2Proof/Certificates/Slice0/Obligations.lean ====
section
/-!
DEFINITION. The statements for the provers, one `def Obligations.<Name> : Prop` each. Each docstring names the rule of
spec/ or the log entry it rests on.
-/

open Sys2Proof Sys2Proof.Machine

/-! ### Encoding -/

/-- Decoding the bytes of a well-formed instruction gives it back, with every operand at every value, and the bytes
after it (30_encoding.md R101, R102, R105). -/
def Obligations.DecodeOfEncode : Prop :=
  ∀ (i : Instr) (rest : List Byte), i.WellFormed → decode (encode i ++ rest) = .ok (i, rest)

/-- Bytes that decode are the encoding of what they decode to, and what they decode to is well formed. -/
def Obligations.EncodeOfDecode : Prop :=
  ∀ (bytes rest : List Byte) (i : Instr), decode bytes = .ok (i, rest) → i.WellFormed ∧ encode i ++ rest = bytes

/-- Decoding is total on the 256 opcode values, and the 105 of R108, and no others, decode to `undoc`
(30_encoding.md R103, R108; 48_undocumented.md R421). -/
def Obligations.EveryOpcodeDecodes : Prop :=
  ∀ (op b1 b2 : Byte) (rest : List Byte), ∃ (i : Instr) (rest' : List Byte),
    decode (op :: b1 :: b2 :: rest) = .ok (i, rest') ∧ i.opcode = some op ∧
      (op ∈ undocumentedOpcodes ↔ i = .undoc op) ∧ undocumentedOpcodes.length = 105

/-- Words written out from the opcode map and the examples of the instruction rules decode to the instructions they
stand for, one of each family at least. That JSR's three bytes decode to the low byte of its target alone is the model's
reading (log entry 10, DEDUCED from 46_control.md R370): R102 gives the mode the value of both operand bytes. -/
def Obligations.SampleWordsDecode : Prop :=
  decodeTableWord 16 0x80A9 = some (.lda (.imm 0x80)) ∧
  decodeTableWord 24 0x02008D = some (.sta (.abs 0x0200)) ∧
  decodeTableWord 16 0x10B6 = some (.ldx (.zpy 0x10)) ∧
  decodeTableWord 8 0x9A = some .txs ∧
  decodeTableWord 8 0x08 = some .php ∧
  decodeTableWord 16 0x4071 = some (.adc (.izy 0x40)) ∧
  decodeTableWord 16 0x20A1 = some (.lda (.izx 0x20)) ∧
  decodeTableWord 24 0x12FFFE = some (.inc (.abx 0x12FF)) ∧
  decodeTableWord 16 0x10D5 = some (.cmp (.zpx 0x10)) ∧
  decodeTableWord 24 0x02002C = some (.bit (.abs 0x0200)) ∧
  decodeTableWord 8 0x6A = some (.ror .acc) ∧
  decodeTableWord 16 0xFED0 = some (.bne 0xFE) ∧
  decodeTableWord 24 0x12FF6C = some (.jmp (.ind 0x12FF)) ∧
  decodeTableWord 24 0x123420 = some (.jsr 0x34) ∧
  decodeTableWord 16 0xEE00 = some .brk ∧
  decodeTableWord 8 0x78 = some .sei ∧
  decodeTableWord 8 0xEA = some .nop ∧
  decodeTableWord 8 0x02 = some (.undoc 0x02)

/-- The offset byte an assembler emits for a branch at `p` to an encodable target `t` makes the branch go there
(30_encoding.md R111, which the spec marks as derived). -/
def Obligations.BranchOffsetReachesTarget : Prop :=
  ∀ (p t : Addr) (s : State), branchEncodable p t = true → s.pc = p + 2 →
    (resolve (.rel (branchOffset p t)) s).loc = .target t

/-- A step of an instruction that is no control instruction leaves PC at the instruction's own address plus its length
(10_state.md R36, which the spec marks as derived), whatever the adapter is. -/
def Obligations.PcAdvancesByLength : Prop :=
  ∀ s t : State, s.power = true → boundaryEvent s = .instruction → isControl (fetchInstr s).instr = false →
    step s = .next t → t.pc = s.pc + BitVec.ofNat 16 (fetchInstr s).instr.length

/-! ### Steps -/

/-- A step runs the decoded instruction: when the bytes at PC decode to an instruction and no event is to be served, the
step is its execution on the state with those bytes fetched and PC past them (40_execution_loop.md R134). -/
def Obligations.StepRunsDecodedInstruction : Prop :=
  ∀ (s : State) (i : Instr) (rest : List Byte),
    s.devices = [] → s.refused = none → s.power = true → boundaryEvent s = .instruction →
    decode [s.peek s.pc, s.peek (s.pc + 1), s.peek (s.pc + 2)] = .ok (i, rest) →
    step s = exec i (s.fetched (encode i).length)

/-- Executing an undocumented value is refused, naming it and the address it was fetched from; a run that meets it ends
there with the opcode fetched, PC advanced, no cycle of the step counted and the mark set (48_undocumented.md R422). -/
def Obligations.UndocumentedOpcodeRefused : Prop :=
  (∀ (op : Byte) (s : State), exec (.undoc op) s = .refused (.undocumentedOpcode op (s.pc - 1))) ∧
  (∀ s : State, s.devices = [] → s.refused = none → s.power = true → boundaryEvent s = .instruction →
    s.peek s.pc ∈ undocumentedOpcodes →
    step s = .refused (.undocumentedOpcode (s.peek s.pc) s.pc) ∧
    ∀ budget : Nat, 0 < budget → Config.fits budget = true →
      hostRun budget s = .refused (.undocumentedOpcode (s.peek s.pc) s.pc)
        { s with
          pc := s.pc + 1
          cycles := 0
          refused := some (.undocumentedOpcode (s.peek s.pc) s.pc)
          history := s.readOf s.pc :: s.history })

/-- No step exists from a refused state, which `step` answers by naming the refusal (40_execution_loop.md R141). That `run`
there answers the same refusal and leaves the record as it is, with or without power, is the model's choice (log entry 8,
DESIGN CHOICE): 48_undocumented.md R422 gives no later host operation a defined result. -/
def Obligations.RefusedStateHasNoStep : Prop :=
  ∀ (s : State) (r : Refusal), s.refused = some r →
    step s = .refused r ∧ ∀ budget : Nat, hostRun budget s = .refused r s

/-! ### Memory and the stack -/

/-- On plain RAM a read answers the last byte written to the address, and what was there for every other
(20_memory.md R71). -/
def Obligations.PlainRamReadsLastWrite : Prop :=
  ∀ (s : State) (a b : Addr) (v : Byte), s.devices = [] →
    (busRead b (busWrite a v s)).1 = if b = a then v else (busRead b s).1

/-- Two memories in canonical form that read alike at every address are the same list (log entry 1: the model's own
form). -/
def Obligations.CanonicalMemoriesAgree : Prop :=
  ∀ m n : Memory, m.wf = true → n.wf = true → (∀ a : Addr, m.read a.toNat = n.read a.toNat) → m = n

/-- Push writes at 0x0100 + SP and then decrements SP; pull increments SP and then reads there; SP wraps modulo 256
(20_memory.md R76, R77), whatever the adapter is. -/
def Obligations.StackDiscipline : Prop :=
  (∀ (v : Byte) (s : State),
    push v s = { busWrite (BitVec.ofNat 16 (0x0100 + s.sp.toNat)) v s with sp := s.sp - 1 }) ∧
  (∀ s : State,
    pull s = busRead (BitVec.ofNat 16 (0x0100 + (s.sp.toNat + 1) % 256)) { s with sp := s.sp + 1 })

/-- `Read16` reads the low byte at `a` and then the high byte at `a + 1` modulo 65,536 (20_memory.md R75), whatever the
adapter is; on plain RAM it answers the word there. -/
def Obligations.WordReadIsLittleEndian : Prop :=
  ∀ (a : Addr) (s : State),
    (busRead16 a s).2 = (busRead (a + 1) (busRead a s).2).2 ∧
    (busRead16 a s).1.toNat = (busRead (a + 1) (busRead a s).2).1.toNat * 256 + (busRead a s).1.toNat ∧
    (s.devices = [] → (busRead16 a s).1.toNat = (s.peek (a + 1)).toNat * 256 + (s.peek a).toNat)

/-! ### Addressing modes -/

/-- Zero page, zero page,X and zero page,Y: the sum wraps within the zero page and no crossing is reported
(41_addressing_modes.md R174, R175, R176). -/
def Obligations.ZeroPageModesWrap : Prop :=
  ∀ (z : Byte) (s : State),
    resolve (.zp z) s = ⟨.mem (BitVec.ofNat 16 z.toNat), false, s⟩ ∧
    resolve (.zpx z) s = ⟨.mem (BitVec.ofNat 16 ((z.toNat + s.x.toNat) % 256)), false, s⟩ ∧
    resolve (.zpy z) s = ⟨.mem (BitVec.ofNat 16 ((z.toNat + s.y.toNat) % 256)), false, s⟩

/-- Absolute, absolute,X and absolute,Y: the sum wraps modulo 65,536, and a page is crossed exactly when the low byte of
the base and the index sum past 255 (R177, R178, R179). -/
def Obligations.AbsoluteModesCross : Prop :=
  ∀ (a : Addr) (s : State),
    resolve (.abs a) s = ⟨.mem a, false, s⟩ ∧
    resolve (.abx a) s =
      ⟨.mem (BitVec.ofNat 16 ((a.toNat + s.x.toNat) % 65536)), decide (a.toNat % 256 + s.x.toNat > 255), s⟩ ∧
    resolve (.aby a) s =
      ⟨.mem (BitVec.ofNat 16 ((a.toNat + s.y.toNat) % 65536)), decide (a.toNat % 256 + s.y.toNat > 255), s⟩

/-- The pointers of (zero page,X) and (zero page),Y wrap within the zero page, the pointer of JMP (abs) takes its high
byte from the same page, each reads its low byte first, and (zero page),Y may cross a page (R180, R181, R182). -/
def Obligations.PointerModesWrap : Prop :=
  ∀ s : State, s.devices = [] →
    (∀ z : Byte, ∃ lo hi : Addr,
      lo.toNat = (z.toNat + s.x.toNat) % 256 ∧ hi.toNat = (z.toNat + s.x.toNat + 1) % 256 ∧
      resolve (.izx z) s =
        ⟨.mem (s.word lo hi), false, { s with history := s.readOf hi :: s.readOf lo :: s.history }⟩) ∧
    (∀ z : Byte, ∃ lo hi : Addr,
      lo.toNat = z.toNat ∧ hi.toNat = (z.toNat + 1) % 256 ∧
      resolve (.izy z) s =
        ⟨.mem (BitVec.ofNat 16 (((s.word lo hi).toNat + s.y.toNat) % 65536)),
          decide ((s.word lo hi).toNat % 256 + s.y.toNat > 255),
          { s with history := s.readOf hi :: s.readOf lo :: s.history }⟩) ∧
    (∀ ptr : Addr, ∃ hi : Addr,
      hi.toNat = ptr.toNat / 256 * 256 + (ptr.toNat + 1) % 256 ∧
      resolve (.ind ptr) s =
        ⟨.mem (s.word ptr hi), false, { s with history := s.readOf hi :: s.readOf ptr :: s.history }⟩)

/-- Relative: the target is the next instruction's address plus the signed offset, modulo 65,536, and a crossing
compares its page with the next instruction's (R183). -/
def Obligations.RelativeTarget : Prop :=
  ∀ (off : Byte) (s : State),
    resolve (.rel off) s =
      ⟨.target (BitVec.ofInt 16 (s.pc.toNat + off.toInt)),
        decide ((BitVec.ofInt 16 (s.pc.toNat + off.toInt) : Addr).toNat / 256 ≠ s.pc.toNat / 256), s⟩

/-! ### Instructions: where they complete and with what -/

/-- Every documented instruction completes whatever devices answer, as long as they call only `nmi` and `irq` meanwhile:
a device answers any byte (20_memory.md R71), and those two calls are allowed from inside an access (R91). The next six
answers are enough, since no instruction makes more accesses. -/
def Obligations.DeviceAnswersLetInstructionsComplete : Prop :=
  ∀ (i : Instr) (s : State), i.WellFormed → (∀ op, i ≠ .undoc op) → s.refused = none →
    Config.fits (s.cycles + 7) = true → 6 ≤ s.answers.length →
    (∀ ans ∈ s.answers, ∀ c ∈ ans.calls, allowedInAccess c = true) →
    ∃ t : State, exec i s = .next t

/-- The base counts of the classes and modes, as the cycle columns give them of 42_load_store_transfer.md R210 to R215,
44_arith_logic.md R274 to R278 and R280 to R285, 45_shift_rotate.md R330 to R333 and 46_control.md R369; R136 has each
step cost its row's base count. -/
def Obligations.BaseCycleCounts : Prop :=
  (readCycles .imm = 2 ∧ readCycles .zp = 3 ∧ readCycles .zpx = 4 ∧ readCycles .zpy = 4 ∧ readCycles .abs = 4 ∧
    readCycles .abx = 4 ∧ readCycles .aby = 4 ∧ readCycles .izx = 6 ∧ readCycles .izy = 5) ∧
  (writeCycles .zp = 3 ∧ writeCycles .zpx = 4 ∧ writeCycles .zpy = 4 ∧ writeCycles .abs = 4 ∧ writeCycles .abx = 5 ∧
    writeCycles .aby = 5 ∧ writeCycles .izx = 6 ∧ writeCycles .izy = 6) ∧
  (modifyCycles .acc = 2 ∧ modifyCycles .zp = 5 ∧ modifyCycles .zpx = 6 ∧ modifyCycles .abs = 6 ∧
    modifyCycles .abx = 7) ∧
  (jumpCycles .abs = 3 ∧ jumpCycles .ind = 5)

/-- LDA, LDX and LDY complete with the operand byte in the register, N and Z from it, the reads of their mode recorded,
and one cycle more on a page crossing (42_load_store_transfer.md R210 to R212; 41_addressing_modes.md R184, R186). -/
def Obligations.LoadsComplete : Prop :=
  ∀ (o : Operand) (s : State), s.Ready →
    let m := operandValue o s
    let done := { s.costing (readCycles o.mode + crossCycles (pageCross o s)) with
      flags := { s.flags with n := m.msb, z := decide (m = 0) }, history := operandReads o s ++ s.history }
    ((Instr.lda o).WellFormed → exec (.lda o) s = .next { done with a := m }) ∧
    ((Instr.ldx o).WellFormed → exec (.ldx o) s = .next { done with x := m }) ∧
    ((Instr.ldy o).WellFormed → exec (.ldy o) s = .next { done with y := m })

/-- STA, STX and STY complete with the register written to the effective address, which is not read, no flag changed
and no page-cross cycle (42_load_store_transfer.md R213 to R215). -/
def Obligations.StoresComplete : Prop :=
  ∀ (o : Operand) (s : State) (ea : Addr), s.Ready → effectiveAddress o s = some ea →
    let done (v : Byte) : State := { s.costing (writeCycles o.mode) with
      mem := s.mem.write ea.toNat v, history := .write ea v :: (pointerReads o s ++ s.history) }
    ((Instr.sta o).WellFormed → exec (.sta o) s = .next (done s.a)) ∧
    ((Instr.stx o).WellFormed → exec (.stx o) s = .next (done s.x)) ∧
    ((Instr.sty o).WellFormed → exec (.sty o) s = .next (done s.y))

/-- The register transfers, INX, INY, DEX and DEY complete in 2 cycles, modulo 256; all but TXS set N and Z from the
value moved or the result (42_load_store_transfer.md R216 to R221; 44_arith_logic.md R286 to R289). -/
def Obligations.RegisterInstructionsComplete : Prop :=
  ∀ s : State, s.Ready →
    let nz (v : Byte) : State := { s.costing 2 with flags := { s.flags with n := v.msb, z := decide (v = 0) } }
    exec .tax s = .next { nz s.a with x := s.a } ∧
    exec .tay s = .next { nz s.a with y := s.a } ∧
    exec .txa s = .next { nz s.x with a := s.x } ∧
    exec .tya s = .next { nz s.y with a := s.y } ∧
    exec .tsx s = .next { nz s.sp with x := s.sp } ∧
    exec .txs s = .next { s.costing 2 with sp := s.x } ∧
    exec .inx s = .next { nz (s.x + 1) with x := s.x + 1 } ∧
    exec .iny s = .next { nz (s.y + 1) with y := s.y + 1 } ∧
    exec .dex s = .next { nz (s.x - 1) with x := s.x - 1 } ∧
    exec .dey s = .next { nz (s.y - 1) with y := s.y - 1 }

/-- The seven flag instructions and NOP complete in 2 cycles with their one flag written, and nothing else
(47_flags_nop.md R400 to R407). -/
def Obligations.FlagInstructionsComplete : Prop :=
  ∀ s : State, s.Ready →
    let with_ (f : Flags) : State := { s.costing 2 with flags := f }
    exec .clc s = .next (with_ { s.flags with c := false }) ∧
    exec .sec s = .next (with_ { s.flags with c := true }) ∧
    exec .cli s = .next (with_ { s.flags with i := false }) ∧
    exec .sei s = .next (with_ { s.flags with i := true }) ∧
    exec .cld s = .next (with_ { s.flags with d := false }) ∧
    exec .sed s = .next (with_ { s.flags with d := true }) ∧
    exec .clv s = .next (with_ { s.flags with v := false }) ∧
    exec .nop s = .next (s.costing 2)

/-- PHA, PHP, PLA and PLP complete: PHP pushes P with bits 5 and 4 set, PLA sets N and Z from the pulled byte, PLP takes
all six flags from it (43_stack.md R250 to R253; 10_state.md R45, R46). -/
def Obligations.StackInstructionsComplete : Prop :=
  ∀ s : State, s.Ready →
    let slot := stackAddr s.sp
    let top := stackAddr (s.sp + 1)
    let pushed (v : Byte) : State := { s.costing 3 with
      sp := s.sp - 1, mem := s.mem.write slot.toNat v, history := .write slot v :: s.history }
    let pulled : State := { s.costing 4 with sp := s.sp + 1, history := s.readOf top :: s.history }
    let m := s.peek top
    exec .pha s = .next (pushed s.a) ∧
    exec .php s = .next (pushed (s.flags.pack ||| 0x30)) ∧
    exec .pla s = .next { pulled with a := m, flags := { s.flags with n := m.msb, z := decide (m = 0) } } ∧
    exec .plp s = .next { pulled with
      flags := ⟨m.getLsbD 7, m.getLsbD 6, m.getLsbD 3, m.getLsbD 2, m.getLsbD 1, m.getLsbD 0⟩ }

/-- ADC and SBC complete in the mode D selects: binary, or NMOS decimal, where SBC takes its flags from the binary
subtraction (44_arith_logic.md R274, R275). -/
def Obligations.AddSubtractComplete : Prop :=
  ∀ (o : Operand) (s : State), s.Ready →
    let m := operandValue o s
    let done := { s.costing (readCycles o.mode + crossCycles (pageCross o s)) with
      history := operandReads o s ++ s.history }
    let sum := if s.flags.d = true then decimalAdd s.a m s.flags else addBinary s.a m s.flags
    let difference := subBinary s.a m s.flags
    ((Instr.adc o).WellFormed → exec (.adc o) s = .next { done with a := sum.1, flags := sum.2 }) ∧
    ((Instr.sbc o).WellFormed →
      exec (.sbc o) s = .next { done with
        a := if s.flags.d = true then decimalSub s.a m s.flags.c else difference.1
        flags := difference.2 })

/-- Binary addition (44_arith_logic.md R270): the sum modulo 256, C when it passes 255, V exactly when the signed sum is
outside -128 to 127, N and Z from the result, D and I kept. -/
def Obligations.BinaryAddition : Prop :=
  ∀ (a m : Byte) (f : Flags),
    let c := if f.c = true then 1 else 0
    let s := a.toNat + m.toNat + c
    let t : Int := a.toInt + m.toInt + c
    let r : Byte := BitVec.ofNat 8 (s % 256)
    addBinary a m f =
      (r, { f with
        c := decide (s > 255)
        v := decide (t < -128 ∨ t > 127)
        n := r.msb
        z := decide (r = 0) })

/-- Binary subtraction (44_arith_logic.md R271): the difference modulo 256, C when there is no borrow, V exactly when the
signed difference is outside -128 to 127, N and Z from the result; and it equals the addition of the complement in
result and flags. -/
def Obligations.BinarySubtraction : Prop :=
  ∀ (a m : Byte) (f : Flags),
    let c : Int := if f.c = true then 1 else 0
    let d : Int := a.toNat - m.toNat - (1 - c)
    let t : Int := a.toInt - m.toInt - (1 - c)
    let r : Byte := BitVec.ofInt 8 d
    subBinary a m f =
      (r, { f with
        c := decide (d ≥ 0)
        v := decide (t < -128 ∨ t > 127)
        n := r.msb
        z := decide (r = 0) }) ∧
    subBinary a m f = addBinary a (m ^^^ 0xFF) f

/-- Decimal addition on every pair of bytes and carry, digit by digit: the low digit sum adjusted by 6 from 10 on, N and V
from the sum before the high adjust by 0x60, Z from the binary sum, C from the adjusted sum; on valid BCD operands the
result is the BCD sum and C its carry (44_arith_logic.md R272). -/
def Obligations.DecimalAddition : Prop :=
  ∀ (a m : Byte) (f : Flags),
    let c := if f.c = true then 1 else 0
    let low := (a &&& 0x0F).toNat + (m &&& 0x0F).toNat + c
    let al := if low ≥ 10 then (low + 6) % 16 + 16 else low
    let s := (a &&& 0xF0).toNat + (m &&& 0xF0).toNat + al
    let t : Int := (a &&& 0xF0).toInt + (m &&& 0xF0).toInt + al
    let sum := if s ≥ 0xA0 then s + 0x60 else s
    let bcd (b : Byte) : Nat := b.toNat / 16 * 10 + b.toNat % 16
    let valid (b : Byte) : Prop := b.toNat / 16 ≤ 9 ∧ b.toNat % 16 ≤ 9
    decimalAdd a m f =
      (BitVec.ofNat 8 sum, { f with
        n := decide (s / 128 % 2 = 1)
        v := decide (t < -128 ∨ t > 127)
        z := decide ((a.toNat + m.toNat + c) % 256 = 0)
        c := decide (sum ≥ 0x100) }) ∧
    (valid a → valid m →
      valid (decimalAdd a m f).1 ∧ bcd (decimalAdd a m f).1 = (bcd a + bcd m + c) % 100 ∧
        (decimalAdd a m f).2.c = decide (bcd a + bcd m + c ≥ 100))

/-- Decimal subtraction on every pair of bytes and carry, digit by digit with its two adjusts (44_arith_logic.md R273); on
valid BCD operands the result is valid BCD and the BCD difference, borrowing a hundred, which no rule says: it follows from
the digit rule. -/
def Obligations.DecimalSubtraction : Prop :=
  ∀ (a m : Byte) (carry : Bool),
    let c : Nat := if carry = true then 1 else 0
    let low : Int := (a &&& 0x0F).toNat - (m &&& 0x0F).toNat + c - 1
    let al : Int := if low < 0 then (low - 6) % 16 - 16 else low
    let s : Int := (a &&& 0xF0).toNat - (m &&& 0xF0).toNat + al
    let bcd (b : Byte) : Nat := b.toNat / 16 * 10 + b.toNat % 16
    let valid (b : Byte) : Prop := b.toNat / 16 ≤ 9 ∧ b.toNat % 16 ≤ 9
    decimalSub a m carry = BitVec.ofInt 8 (if s < 0 then s - 0x60 else s) ∧
    (valid a → valid m →
      valid (decimalSub a m carry) ∧ bcd (decimalSub a m carry) = (bcd a + 100 - bcd m - (1 - c)) % 100)

/-- D changes no instruction but ADC and SBC, and those that push or write it: a run of any other with D set otherwise
ends in the same state but for D (10_state.md R41; 44_arith_logic.md R290, which the spec marks as derived). -/
def Obligations.DecimalFlagSelectsOnlyAddSubtract : Prop :=
  ∀ (i : Instr) (s t : State) (b : Bool),
    (∀ o, i ≠ .adc o) → (∀ o, i ≠ .sbc o) → i ≠ .php → i ≠ .brk → i ≠ .plp → i ≠ .rti → i ≠ .cld → i ≠ .sed →
    exec i s = .next t → exec i (s.withD b) = .next (t.withD b)

/-- AND, ORA and EOR complete with the bitwise result in A and N and Z from it (44_arith_logic.md R276 to R278). -/
def Obligations.LogicComplete : Prop :=
  ∀ (o : Operand) (s : State), s.Ready →
    let m := operandValue o s
    let done (r : Byte) : State := { s.costing (readCycles o.mode + crossCycles (pageCross o s)) with
      a := r, flags := { s.flags with n := r.msb, z := decide (r = 0) }, history := operandReads o s ++ s.history }
    ((Instr.and o).WellFormed → exec (.and o) s = .next (done (s.a &&& m))) ∧
    ((Instr.ora o).WellFormed → exec (.ora o) s = .next (done (s.a ||| m))) ∧
    ((Instr.eor o).WellFormed → exec (.eor o) s = .next (done (s.a ^^^ m)))

/-- CMP, CPX and CPY complete with C the unsigned comparison, Z equality and N bit 7 of the difference; BIT with Z from
`A AND M` and N and V from M; no register is written (44_arith_logic.md R279 to R283). -/
def Obligations.ComparesComplete : Prop :=
  ∀ (o : Operand) (s : State), s.Ready →
    let m := operandValue o s
    let done (f : Flags) : State := { s.costing (readCycles o.mode + crossCycles (pageCross o s)) with
      flags := f, history := operandReads o s ++ s.history }
    let compared (r : Byte) : Flags :=
      { s.flags with c := decide (m.toNat ≤ r.toNat), z := decide (r = m), n := (r - m).msb }
    ((Instr.cmp o).WellFormed → exec (.cmp o) s = .next (done (compared s.a))) ∧
    ((Instr.cpx o).WellFormed → exec (.cpx o) s = .next (done (compared s.x))) ∧
    ((Instr.cpy o).WellFormed → exec (.cpy o) s = .next (done (compared s.y))) ∧
    ((Instr.bit o).WellFormed →
      exec (.bit o) s = .next (done { s.flags with
        z := decide (s.a &&& m = 0), n := m.getLsbD 7, v := m.getLsbD 6 }))

/-- INC and DEC complete with the byte at the effective address read once and written once, modulo 256, N and Z from the
result and C kept (44_arith_logic.md R284, R285). -/
def Obligations.MemoryStepsComplete : Prop :=
  ∀ (o : Operand) (s : State) (ea : Addr), s.Ready → effectiveAddress o s = some ea →
    let done (r : Byte) : State := { s.costing (modifyCycles o.mode) with
      mem := s.mem.write ea.toNat r
      flags := { s.flags with n := r.msb, z := decide (r = 0) }
      history := .write ea r :: s.readOf ea :: (pointerReads o s ++ s.history) }
    ((Instr.inc o).WellFormed → exec (.inc o) s = .next (done (s.peek ea + 1))) ∧
    ((Instr.dec o).WellFormed → exec (.dec o) s = .next (done (s.peek ea - 1)))

/-- The shifts and rotates of the accumulator complete in 2 cycles: doubling and halving modulo 256 with the old C into
the free bit of a rotate, C the bit shifted out, N and Z from the result, so N is 0 after LSR and the old C after ROR
(45_shift_rotate.md R330 to R334). -/
def Obligations.AccumulatorShiftsComplete : Prop :=
  ∀ s : State, s.Ready →
    let c := if s.flags.c = true then 1 else 0
    let done (r : Nat) (out : Nat) (n : Bool) : State := { s.costing 2 with
      a := BitVec.ofNat 8 r
      flags := { s.flags with n := n, z := decide ((BitVec.ofNat 8 r : Byte) = 0), c := decide (out = 1) } }
    exec (.asl .acc) s = .next (done (s.a.toNat * 2) (s.a.toNat / 128) (s.a.getLsbD 6)) ∧
    exec (.lsr .acc) s = .next (done (s.a.toNat / 2) (s.a.toNat % 2) false) ∧
    exec (.rol .acc) s = .next (done (s.a.toNat * 2 + c) (s.a.toNat / 128) (s.a.getLsbD 6)) ∧
    exec (.ror .acc) s = .next (done (s.a.toNat / 2 + 128 * c) (s.a.toNat % 2) s.flags.c)

/-- The shifts and rotates of a memory byte complete with one read and one write, and the same results and flags
(45_shift_rotate.md R330 to R334). -/
def Obligations.MemoryShiftsComplete : Prop :=
  ∀ (o : Operand) (s : State) (ea : Addr), s.Ready → effectiveAddress o s = some ea →
    let c := if s.flags.c = true then 1 else 0
    let v := s.peek ea
    let done (r : Nat) (out : Nat) (n : Bool) : State := { s.costing (modifyCycles o.mode) with
      mem := s.mem.write ea.toNat (BitVec.ofNat 8 r)
      flags := { s.flags with n := n, z := decide ((BitVec.ofNat 8 r : Byte) = 0), c := decide (out = 1) }
      history := .write ea (BitVec.ofNat 8 r) :: s.readOf ea :: (pointerReads o s ++ s.history) }
    ((Instr.asl o).WellFormed → exec (.asl o) s = .next (done (v.toNat * 2) (v.toNat / 128) (v.getLsbD 6))) ∧
    ((Instr.lsr o).WellFormed → exec (.lsr o) s = .next (done (v.toNat / 2) (v.toNat % 2) false)) ∧
    ((Instr.rol o).WellFormed → exec (.rol o) s = .next (done (v.toNat * 2 + c) (v.toNat / 128) (v.getLsbD 6))) ∧
    ((Instr.ror o).WellFormed → exec (.ror o) s = .next (done (v.toNat / 2 + 128 * c) (v.toNat % 2) s.flags.c))

/-- The eight branches complete: not taken in 2 cycles with nothing else changed, taken to the target in 3, or 4 if the
target's page is not the next instruction's; on N, V, C or Z clear or set (46_control.md R360 to R368). -/
def Obligations.BranchesComplete : Prop :=
  ∀ (off : Byte) (s : State), s.Ready →
    let t : Addr := BitVec.ofInt 16 (s.pc.toNat + off.toInt)
    let go (cond : Bool) : State :=
      if cond = true then
        { s.costing (if t.toNat / 256 = s.pc.toNat / 256 then 3 else 4) with pc := t }
      else s.costing 2
    exec (.bpl off) s = .next (go (!s.flags.n)) ∧ exec (.bmi off) s = .next (go s.flags.n) ∧
    exec (.bvc off) s = .next (go (!s.flags.v)) ∧ exec (.bvs off) s = .next (go s.flags.v) ∧
    exec (.bcc off) s = .next (go (!s.flags.c)) ∧ exec (.bcs off) s = .next (go s.flags.c) ∧
    exec (.bne off) s = .next (go (!s.flags.z)) ∧ exec (.beq off) s = .next (go s.flags.z)

/-- JMP completes at its operand in 3 cycles, or in 5 at the word its pointer holds, whose high byte is read from the
pointer's own page; no byte at the target is read (46_control.md R369; 41_addressing_modes.md R180). -/
def Obligations.JumpCompletes : Prop :=
  ∀ (a : Addr) (s : State), s.Ready →
    let hi : Addr := BitVec.ofNat 16 (a.toNat / 256 * 256 + (a.toNat + 1) % 256)
    exec (.jmp (.abs a)) s = .next { s.costing 3 with pc := a } ∧
    exec (.jmp (.ind a)) s = .next { s.costing 5 with
      pc := s.word a hi, history := s.readOf hi :: s.readOf a :: s.history }

/-- JSR completes in 6 cycles: the address of its own last byte is pushed, high byte first, and the high byte of the
target is read only after the pushes; RTS completes in 6 at the pulled address plus 1 (46_control.md R370, R371). -/
def Obligations.SubroutineInstructionsComplete : Prop :=
  ∀ s : State, s.Ready →
    (∀ lo : Byte,
      let mem := (s.mem.write (stackAddr s.sp).toNat (highByte s.pc)).write (stackAddr (s.sp - 1)).toNat (lowByte s.pc)
      let hi := Memory.read mem s.pc.toNat
      exec (.jsr lo) s = .next { s.costing 6 with
        pc := joinBytes hi lo
        sp := s.sp - 2
        mem := mem
        history := [.read s.pc hi, .write (stackAddr (s.sp - 1)) (lowByte s.pc),
          .write (stackAddr s.sp) (highByte s.pc)] ++ s.history }) ∧
    exec .rts s = .next { s.costing 6 with
      pc := s.word (stackAddr (s.sp + 1)) (stackAddr (s.sp + 2)) + 1
      sp := s.sp + 2
      history := [s.readOf (stackAddr (s.sp + 2)), s.readOf (stackAddr (s.sp + 1))] ++ s.history }

/-- BRK completes in 7 cycles whatever I is: the service sequence at 0xFFFE, from the state with PC past the padding
byte, with the break bit of the pushed flag byte 1; D is kept (46_control.md R372; 60_exceptions.md R447). -/
def Obligations.BreakCompletes : Prop :=
  ∀ s : State, s.Ready →
    exec .brk s = .next (({ s with pc := s.pc + 1 } : State).servicedOnRam 0xFFFE true |>.costing 7)

/-- RTI completes in 6 cycles with the flags and then PC pulled, and no 1 added (46_control.md R373). -/
def Obligations.ReturnFromInterruptCompletes : Prop :=
  ∀ s : State, s.Ready →
    exec .rti s = .next { s.costing 6 with
      pc := s.word (stackAddr (s.sp + 2)) (stackAddr (s.sp + 3))
      sp := s.sp + 3
      flags := Flags.unpack (s.peek (stackAddr (s.sp + 1)))
      history := [s.readOf (stackAddr (s.sp + 3)), s.readOf (stackAddr (s.sp + 2)),
        s.readOf (stackAddr (s.sp + 1))] ++ s.history }

/-! ### Interrupts and reset -/

/-- The reset sequence runs before any other event: the latch is cleared, SP is 0xFD, I is set, PC is the word at 0xFFFC,
nothing is pushed, every other field is kept, and 7 cycles are counted (70_reset_and_hazards.md R494). -/
def Obligations.ResetSequenceStep : Prop :=
  ∀ s : State, s.Ready → s.power = true → s.resetPending = true →
    step s = .next { s.costing 7 with
      resetPending := false
      sp := 0xFD
      flags := { s.flags with i := true }
      pc := s.word 0xFFFC 0xFFFD
      history := [s.readOf 0xFFFD, s.readOf 0xFFFC] ++ s.history }

/-- The NMI is served at a boundary with no reset pending, whatever I is: the latch is cleared and the service sequence
runs at 0xFFFA with the break bit 0. The IRQ is served when neither is pending, the line is up and I is clear, at 0xFFFE,
and its line stays up. Each costs 7. With neither pending and the line down or masked, the step is an instruction's
(60_exceptions.md R445, R446, R447; 40_execution_loop.md R133). -/
def Obligations.InterruptServiceSteps : Prop :=
  ∀ s : State, s.Ready → s.power = true → s.resetPending = false →
    (s.nmiPending = true →
      step s = .next (({ s with nmiPending := false } : State).servicedOnRam 0xFFFA false |>.costing 7)) ∧
    (s.nmiPending = false → s.irqLine = true → s.flags.i = false →
      step s = .next (s.servicedOnRam 0xFFFE false |>.costing 7)) ∧
    (s.nmiPending = false → (s.irqLine = false ∨ s.flags.i = true) → step s = instructionStep s)

/-- RTI undoes a service: from any ready state with the SP the service left and the three pushed bytes still in place,
RTI restores PC, all six flags and SP (60_exceptions.md R456, which the spec marks as derived; 46_control.md R373). -/
def Obligations.ReturnUndoesService : Prop :=
  ∀ (vec : Addr) (b : Bool) (s u : State), s.devices = [] → u.Ready →
    u.sp = (service vec b s).sp →
    (∀ a ∈ [stackAddr s.sp, stackAddr (s.sp - 1), stackAddr (s.sp - 2)], u.peek a = (service vec b s).peek a) →
    ∃ t : State, exec .rti u = .next t ∧ t.pc = s.pc ∧ t.flags = s.flags ∧ t.sp = s.sp

/-- RTS returns past the JSR: from any ready state with the SP the JSR left and the two pushed bytes still in place, PC
is the address after the JSR's last byte and SP is as before it (46_control.md R370, R371). -/
def Obligations.ReturnFollowsCall : Prop :=
  ∀ (lo : Byte) (s t u : State), s.devices = [] → exec (.jsr lo) s = .next t → u.Ready → u.sp = t.sp →
    (∀ a ∈ [stackAddr s.sp, stackAddr (s.sp - 1)], u.peek a = t.peek a) →
    ∃ w : State, exec .rts u = .next w ∧ w.pc = s.pc + 1 ∧ w.sp = s.sp

/-- An IRQ whose line is up when CLI runs is served at the very next boundary, before the instruction after the CLI,
whose address is pushed (47_flags_nop.md R402; 60_exceptions.md R457). -/
def Obligations.ClearedMaskServesIrqNext : Prop :=
  ∀ s : State, s.devices = [] → s.refused = none → Config.fits (s.cycles + 9) = true → s.power = true →
    s.resetPending = false → s.nmiPending = false → s.irqLine = true → s.flags.i = true → s.peek s.pc = 0x58 →
    ∃ t u : State, step s = .next t ∧ t.pc = s.pc + 1 ∧ t.flags.i = false ∧ step t = .next u ∧
      u.pc = s.word 0xFFFE 0xFFFF ∧ u.flags.i = true ∧ u.sp = s.sp - 3 ∧
      u.peek (stackAddr s.sp) = highByte (s.pc + 1) ∧ u.peek (stackAddr (s.sp - 1)) = lowByte (s.pc + 1) ∧
      (u.peek (stackAddr (s.sp - 2))).getLsbD 4 = false

/-! ### The host's operations -/

/-- `run` on a core without power returns 0 and changes nothing, and so does a `run` after power-off, which keeps every
register (40_execution_loop.md R131; the premise "not refused" is the one R141 asks of every claim). -/
def Obligations.RunWithoutPowerDoesNothing : Prop :=
  ∀ (s : State) (budget : Nat), s.refused = none →
    (s.power = false → hostRun budget s = .returned 0 s) ∧
    hostRun budget (hostPower false s) = .returned 0 { s with power := false }

/-- A powered `run` that is not refused returns at least its budget and at most 6 cycles more, which is what the counter
holds (40_execution_loop.md R137, which the spec marks as derived). -/
def Obligations.RunReturnsBudgetOrSixMore : Prop :=
  ∀ (s t : State) (budget r : Nat), s.power = true → 1 ≤ budget → hostRun budget s = .returned r t →
    budget ≤ r ∧ r ≤ budget + 6 ∧ t.cycles = r

/-- `run(1)` on a powered core performs exactly one step, from the counter zeroed, and `run(0)` performs none
(40_execution_loop.md R132; 60_exceptions.md R475, which the spec marks as derived). -/
def Obligations.RunOneIsOneStep : Prop :=
  ∀ s : State, s.refused = none → s.power = true →
    (∀ t : State, step { s with cycles := 0 } = .next t → hostRun 1 s = .returned t.cycles t) ∧
    hostRun 0 s = .returned 0 { s with cycles := 0 }

/-- The other host operations: power-off clears the power flag and keeps every other field, turning on what is on changes
nothing, power-on keeps latches, line, counter, mark and memory, and `reset`, `nmi` and `irq` write their one field
(70_reset_and_hazards.md R490, R491, R493; 60_exceptions.md R442, R443). It is said of refused records too, where the spec
defines no result (48_undocumented.md R422) and the same writes are the model's choice (log entry 18, DESIGN CHOICE). -/
def Obligations.HostOperationsWriteTheirField : Prop :=
  ∀ (s : State) (level : Bool),
    hostPower false s = { s with power := false } ∧
    (s.power = true → hostPower true s = s) ∧
    ((hostPower true s).power = true ∧ (hostPower true s).irqLine = s.irqLine ∧
      (hostPower true s).nmiPending = s.nmiPending ∧ (hostPower true s).resetPending = s.resetPending ∧
      (hostPower true s).cycles = s.cycles ∧ (hostPower true s).refused = s.refused ∧
      (hostPower true s).mem = s.mem ∧ (hostPower true s).history = s.history) ∧
    hostReset s = { s with resetPending := true } ∧ hostNmi s = { s with nmiPending := true } ∧
    hostIrq level s = { s with irqLine := level }

/-! ### Invariants and whole-machine rules -/

/-- Every step keeps the invariant, from every state that meets it, whatever the adapter is. -/
def Obligations.StepKeepsInvariant : Prop :=
  ∀ s t : State, s.Inv → step s = .next t → t.Inv

/-- The state after reset meets the invariant. -/
def Obligations.ResetMeetsInvariant : Prop := State.reset.Inv

/-- State.reset is where the reset sequence takes a powered initial record with `reset` called: SP 0xFD, I set, powered,
no latch set, 7 cycles (70_reset_and_hazards.md R495; A, X, Y, N, V, D, Z and C are the values of log entry 3 and the
empty memory is log entry 1, the model's choices). -/
def Obligations.ResetStateFollowsResetSequence : Prop :=
  step { State.initial with power := true, resetPending := true } = .next State.reset ∧
  State.reset.sp = 0xFD ∧ State.reset.flags.i = true ∧ State.reset.power = true ∧ State.reset.resetPending = false ∧
  State.reset.pc = State.reset.word 0xFFFC 0xFFFD ∧ State.reset.cycles = 7

/-- Every step of a powered core costs at least 2 and at most 7 cycles (40_execution_loop.md R137, which the spec marks
as derived), whatever the adapter is. -/
def Obligations.StepCostsTwoToSeven : Prop :=
  ∀ s t : State, s.power = true → step s = .next t → s.cycles + 2 ≤ t.cycles ∧ t.cycles ≤ s.cycles + 7

/-- No step writes the power flag; the reset latch is cleared by the reset sequence and changed by nothing else; on plain
RAM the NMI latch is cleared by the NMI service and changed by nothing else, and the IRQ line is not changed
(10_state.md R47 to R50). -/
def Obligations.LatchesChangeByTheirServiceOnly : Prop :=
  ∀ s t : State, s.power = true → step s = .next t →
    t.power = s.power ∧
    t.resetPending = (s.resetPending && !decide (boundaryEvent s = .reset)) ∧
    (s.devices = [] →
      t.irqLine = s.irqLine ∧ t.nmiPending = (s.nmiPending && !decide (boundaryEvent s = .nmi)))

/-- A step only adds accesses to the history, at most 6 of them, whatever the adapter is (20_memory.md R83; the lists of
41_addressing_modes.md R186, 46_control.md R370 to R373 and 60_exceptions.md R447). -/
def Obligations.StepAppendsAccesses : Prop :=
  ∀ s t : State, step s = .next t → ∃ new : List Access, t.history = new ++ s.history ∧ new.length ≤ 6

/-- A step changes no flag but those its instruction may write, or I for a service or reset sequence
(10_state.md R39 to R44; the flag lines of the instruction rules). In particular D changes by SED, CLD, PLP and RTI
only. -/
def Obligations.FlagsChangeOnlyByTheirWriters : Prop :=
  ∀ s t : State, s.power = true → step s = .next t →
    (s.stepFlagsWritten.n = false → t.flags.n = s.flags.n) ∧ (s.stepFlagsWritten.v = false → t.flags.v = s.flags.v) ∧
    (s.stepFlagsWritten.d = false → t.flags.d = s.flags.d) ∧ (s.stepFlagsWritten.i = false → t.flags.i = s.flags.i) ∧
    (s.stepFlagsWritten.z = false → t.flags.z = s.flags.z) ∧ (s.stepFlagsWritten.c = false → t.flags.c = s.flags.c)

/-! ### Frames -/

/-- What the read-class instructions leave alone, for every operand and adapter: LDA all but A, N, Z; LDX all but X, N, Z;
LDY all but Y, N, Z; AND, ORA, EOR all but A, N, Z; ADC, SBC all but A, N, V, Z, C; CMP, CPX, CPY all but N, Z, C; BIT all
but N, V, Z; PC, the counter and the history apart. No byte of memory changes. -/
def Obligations.ReadInstructionsFrame : Prop :=
  ∀ (o : Operand) (s t : State),
    let kept := KeepsControl s t ∧ KeepsMemory s t
    (exec (.lda o) s = .next t → kept ∧ KeepsVDIC s t ∧ t.x = s.x ∧ t.y = s.y ∧ t.sp = s.sp) ∧
    (exec (.ldx o) s = .next t → kept ∧ KeepsVDIC s t ∧ t.a = s.a ∧ t.y = s.y ∧ t.sp = s.sp) ∧
    (exec (.ldy o) s = .next t → kept ∧ KeepsVDIC s t ∧ t.a = s.a ∧ t.x = s.x ∧ t.sp = s.sp) ∧
    ((exec (.and o) s = .next t ∨ exec (.ora o) s = .next t ∨ exec (.eor o) s = .next t) →
      kept ∧ KeepsVDIC s t ∧ t.x = s.x ∧ t.y = s.y ∧ t.sp = s.sp) ∧
    ((exec (.adc o) s = .next t ∨ exec (.sbc o) s = .next t) →
      kept ∧ t.x = s.x ∧ t.y = s.y ∧ t.sp = s.sp ∧ t.flags.d = s.flags.d ∧ t.flags.i = s.flags.i) ∧
    ((exec (.cmp o) s = .next t ∨ exec (.cpx o) s = .next t ∨ exec (.cpy o) s = .next t) →
      kept ∧ KeepsRegisters s t ∧ t.flags.v = s.flags.v ∧ t.flags.d = s.flags.d ∧ t.flags.i = s.flags.i) ∧
    (exec (.bit o) s = .next t →
      kept ∧ KeepsRegisters s t ∧ t.flags.d = s.flags.d ∧ t.flags.i = s.flags.i ∧ t.flags.c = s.flags.c)

/-- What the storing instructions leave alone, for every operand and adapter. STA, STX and STY: every register and flag.
INC and DEC: every register and all flags but N and Z. ASL, LSR, ROL and ROR: X, Y, SP, V, D and I, and A for every
operand but the accumulator. Memory: every byte but the one at the address the resolver gives; none for the
accumulator. -/
def Obligations.StoringInstructionsFrame : Prop :=
  ∀ (o : Operand) (s t : State),
    let kept := KeepsControl s t ∧ ∀ b : Addr, (resolve o s).loc ≠ .mem b → t.peek b = s.peek b
    ((exec (.sta o) s = .next t ∨ exec (.stx o) s = .next t ∨ exec (.sty o) s = .next t) →
      kept ∧ KeepsRegisters s t ∧ t.flags = s.flags) ∧
    ((exec (.inc o) s = .next t ∨ exec (.dec o) s = .next t) → kept ∧ KeepsRegisters s t ∧ KeepsVDIC s t) ∧
    ((exec (.asl o) s = .next t ∨ exec (.lsr o) s = .next t ∨ exec (.rol o) s = .next t ∨ exec (.ror o) s = .next t) →
      kept ∧ (o ≠ .acc → t.a = s.a) ∧ t.x = s.x ∧ t.y = s.y ∧ t.sp = s.sp ∧
        t.flags.v = s.flags.v ∧ t.flags.d = s.flags.d ∧ t.flags.i = s.flags.i)

/-- What the implied register and flag instructions leave alone: the transfers all but the destination and, but for TXS,
N and Z; INX, INY, DEX, DEY all but the register, N and Z; the flag instructions all but their flag; NOP everything. No
byte of memory changes. -/
def Obligations.ImpliedInstructionsFrame : Prop :=
  ∀ s t : State,
    let kept := KeepsControl s t ∧ KeepsMemory s t
    ((exec .tax s = .next t ∨ exec .tsx s = .next t ∨ exec .inx s = .next t ∨ exec .dex s = .next t) →
      kept ∧ KeepsVDIC s t ∧ t.a = s.a ∧ t.y = s.y ∧ t.sp = s.sp) ∧
    ((exec .tay s = .next t ∨ exec .iny s = .next t ∨ exec .dey s = .next t) →
      kept ∧ KeepsVDIC s t ∧ t.a = s.a ∧ t.x = s.x ∧ t.sp = s.sp) ∧
    ((exec .txa s = .next t ∨ exec .tya s = .next t) →
      kept ∧ KeepsVDIC s t ∧ t.x = s.x ∧ t.y = s.y ∧ t.sp = s.sp) ∧
    (exec .txs s = .next t → kept ∧ t.flags = s.flags ∧ t.a = s.a ∧ t.x = s.x ∧ t.y = s.y) ∧
    ((exec .clc s = .next t ∨ exec .sec s = .next t) →
      kept ∧ KeepsRegisters s t ∧ t.flags = { s.flags with c := t.flags.c }) ∧
    ((exec .cli s = .next t ∨ exec .sei s = .next t) →
      kept ∧ KeepsRegisters s t ∧ t.flags = { s.flags with i := t.flags.i }) ∧
    ((exec .cld s = .next t ∨ exec .sed s = .next t) →
      kept ∧ KeepsRegisters s t ∧ t.flags = { s.flags with d := t.flags.d }) ∧
    (exec .clv s = .next t → kept ∧ KeepsRegisters s t ∧ t.flags = { s.flags with v := t.flags.v }) ∧
    (exec .nop s = .next t → kept ∧ KeepsRegisters s t ∧ t.flags = s.flags)

/-- What the stack and control instructions leave alone, for every adapter. The branches and JMP: every register, flag and
byte. PHA and PHP: A, X, Y, the flags, and every byte but the stack slot. PLA: X, Y, V, D, I, C and every byte. PLP and
RTI: A, X, Y and every byte. JSR: A, X, Y, the flags and every byte but two stack slots. RTS: A, X, Y, the flags and every
byte. BRK: A, X, Y, all flags but I and every byte but three stack slots. SP is written by PHA, PHP, PLA, PLP, JSR, RTS, BRK
and RTI. -/
def Obligations.StackAndControlFrame : Prop :=
  ∀ (off : Byte) (o : Operand) (s t : State),
    let axy := t.a = s.a ∧ t.x = s.x ∧ t.y = s.y
    ((exec (.bpl off) s = .next t ∨ exec (.bmi off) s = .next t ∨ exec (.bvc off) s = .next t ∨
        exec (.bvs off) s = .next t ∨ exec (.bcc off) s = .next t ∨ exec (.bcs off) s = .next t ∨
        exec (.bne off) s = .next t ∨ exec (.beq off) s = .next t ∨ exec (.jmp o) s = .next t) →
      KeepsControl s t ∧ KeepsMemory s t ∧ KeepsRegisters s t ∧ t.flags = s.flags) ∧
    ((exec .pha s = .next t ∨ exec .php s = .next t) →
      KeepsControl s t ∧ KeepsMemoryBut [stackAddr s.sp] s t ∧ axy ∧ t.flags = s.flags) ∧
    (exec .pla s = .next t → KeepsControl s t ∧ KeepsMemory s t ∧ t.x = s.x ∧ t.y = s.y ∧ KeepsVDIC s t) ∧
    ((exec .plp s = .next t ∨ exec .rti s = .next t) → KeepsControl s t ∧ KeepsMemory s t ∧ axy) ∧
    (exec (.jsr off) s = .next t →
      KeepsControl s t ∧ KeepsMemoryBut [stackAddr s.sp, stackAddr (s.sp - 1)] s t ∧ axy ∧ t.flags = s.flags) ∧
    (exec .rts s = .next t → KeepsControl s t ∧ KeepsMemory s t ∧ axy ∧ t.flags = s.flags) ∧
    (exec .brk s = .next t →
      KeepsControl s t ∧ KeepsMemoryBut [stackAddr s.sp, stackAddr (s.sp - 1), stackAddr (s.sp - 2)] s t ∧ axy ∧
        t.flags = { s.flags with i := t.flags.i })
end

