-- ==== Sys2Proof/Laws/Words.lean ====
section
/-!
SUPPORT. The laws of joining two bytes to an address and taking it apart (00_scope.md R9).
-/

namespace Sys2Proof

@[simp] theorem joinBytes_toNat (hi lo : Byte) : (joinBytes hi lo).toNat = hi.toNat * 256 + lo.toNat := by
  have h1 := hi.isLt
  have h2 := lo.isLt
  simp only [joinBytes, BitVec.toNat_ofNat]
  omega

@[simp] theorem lowByte_joinBytes (hi lo : Byte) : lowByte (joinBytes hi lo) = lo := by
  apply BitVec.eq_of_toNat_eq
  have h2 := lo.isLt
  simp only [lowByte, joinBytes_toNat, BitVec.toNat_ofNat]
  omega

@[simp] theorem highByte_joinBytes (hi lo : Byte) : highByte (joinBytes hi lo) = hi := by
  apply BitVec.eq_of_toNat_eq
  have h1 := hi.isLt
  have h2 := lo.isLt
  simp only [highByte, joinBytes_toNat, BitVec.toNat_ofNat]
  omega

@[simp] theorem joinBytes_split (a : Addr) : joinBytes (highByte a) (lowByte a) = a := by
  apply BitVec.eq_of_toNat_eq
  have h := a.isLt
  simp only [highByte, lowByte, joinBytes_toNat, BitVec.toNat_ofNat]
  omega

end Sys2Proof
end

