-- ==== Sys2Proof/Laws/Encoding.lean ====
section
/-!
SUPPORT. What the assembly of an instruction from its bytes answers, opcode value by opcode value (30_encoding.md R102,
R103, R105, R108).
-/

namespace Sys2Proof

set_option maxRecDepth 100000

/-- A property of bytes holds when it holds of the 256 numerals. -/
theorem byte_cases {P : Byte → Prop} (h : ∀ n < 256, P (BitVec.ofNat 8 n)) (b : Byte) : P b := by
  simpa using h b.toNat b.isLt

/-- What any bytes assemble to is an instruction of the hardware, has the opcode given, and holds the operand bytes that
its opcode asks for. -/
theorem ofBytes_spec (op b1 b2 : Byte) :
    (Instr.ofBytes op b1 b2).wellFormed = true ∧ (Instr.ofBytes op b1 b2).opcode = some op ∧
      (Instr.ofBytes op b1 b2).operandBytes = [b1, b2].take (operandCount op) := by
  revert op
  apply byte_cases
  intro n hn
  interval_cases n <;> (refine ⟨by rfl, by rfl, ?_⟩)
  all_goals first | rfl | (show Operand.bytes (.abs (joinBytes b2 b1)) = [b1, b2]; simp [Operand.bytes])

/-- No opcode asks for more than two bytes before the instruction executes. -/
theorem operandCount_le (op : Byte) : operandCount op ≤ 2 := by
  revert op
  apply byte_cases
  decide

/-- The encoding of what bytes assemble to is those bytes. -/
theorem encode_ofBytes (op b1 b2 : Byte) :
    encode (Instr.ofBytes op b1 b2) = op :: [b1, b2].take (operandCount op) := by
  obtain ⟨-, ho, hb⟩ := ofBytes_spec op b1 b2
  simp only [encode, ho, hb]

/-- The undocumented values are those that assemble to `undoc` (48_undocumented.md R421). -/
theorem mem_undocumentedOpcodes_iff (op : Byte) :
    op ∈ undocumentedOpcodes ↔ Instr.ofBytes op 0 0 = .undoc op := by
  revert op
  apply byte_cases
  decide

/-- An encoding has at most three bytes. -/
theorem encode_length_le (i : Instr) : (encode i).length ≤ 3 := by
  have hb : i.operandBytes.length ≤ 2 := by
    have ho : ∀ o : Operand, o.bytes.length ≤ 2 := by intro o; cases o <;> simp [Operand.bytes]
    cases i <;> simp [Instr.operandBytes] <;> exact ho _
  unfold encode
  split <;> simp
  omega

end Sys2Proof
end

