-- ==== Sys2Proof/Laws/State.lean ====
section
/-!
SUPPORT. One lemma per field per update of the state, each true by unfolding, so that no later proof unfolds a record
update.
-/

namespace Sys2Proof.Machine

open Sys2Proof

@[simp] theorem State.setPc_pc (s : State) (v : Addr) : (s.setPc v).pc = v := rfl
@[simp] theorem State.setPc_sp (s : State) (v : Addr) : (s.setPc v).sp = s.sp := rfl
@[simp] theorem State.setPc_a (s : State) (v : Addr) : (s.setPc v).a = s.a := rfl
@[simp] theorem State.setPc_x (s : State) (v : Addr) : (s.setPc v).x = s.x := rfl
@[simp] theorem State.setPc_y (s : State) (v : Addr) : (s.setPc v).y = s.y := rfl
@[simp] theorem State.setPc_flags (s : State) (v : Addr) : (s.setPc v).flags = s.flags := rfl
@[simp] theorem State.setPc_power (s : State) (v : Addr) : (s.setPc v).power = s.power := rfl
@[simp] theorem State.setPc_irqLine (s : State) (v : Addr) : (s.setPc v).irqLine = s.irqLine := rfl
@[simp] theorem State.setPc_nmiPending (s : State) (v : Addr) : (s.setPc v).nmiPending = s.nmiPending := rfl
@[simp] theorem State.setPc_resetPending (s : State) (v : Addr) : (s.setPc v).resetPending = s.resetPending := rfl
@[simp] theorem State.setPc_cycles (s : State) (v : Addr) : (s.setPc v).cycles = s.cycles := rfl
@[simp] theorem State.setPc_refused (s : State) (v : Addr) : (s.setPc v).refused = s.refused := rfl
@[simp] theorem State.setPc_mem (s : State) (v : Addr) : (s.setPc v).mem = s.mem := rfl
@[simp] theorem State.setPc_history (s : State) (v : Addr) : (s.setPc v).history = s.history := rfl
@[simp] theorem State.setPc_devices (s : State) (v : Addr) : (s.setPc v).devices = s.devices := rfl
@[simp] theorem State.setPc_answers (s : State) (v : Addr) : (s.setPc v).answers = s.answers := rfl
@[simp] theorem State.setPc_draws (s : State) (v : Addr) : (s.setPc v).draws = s.draws := rfl

@[simp] theorem State.setSp_pc (s : State) (v : Byte) : (s.setSp v).pc = s.pc := rfl
@[simp] theorem State.setSp_sp (s : State) (v : Byte) : (s.setSp v).sp = v := rfl
@[simp] theorem State.setSp_a (s : State) (v : Byte) : (s.setSp v).a = s.a := rfl
@[simp] theorem State.setSp_x (s : State) (v : Byte) : (s.setSp v).x = s.x := rfl
@[simp] theorem State.setSp_y (s : State) (v : Byte) : (s.setSp v).y = s.y := rfl
@[simp] theorem State.setSp_flags (s : State) (v : Byte) : (s.setSp v).flags = s.flags := rfl
@[simp] theorem State.setSp_power (s : State) (v : Byte) : (s.setSp v).power = s.power := rfl
@[simp] theorem State.setSp_irqLine (s : State) (v : Byte) : (s.setSp v).irqLine = s.irqLine := rfl
@[simp] theorem State.setSp_nmiPending (s : State) (v : Byte) : (s.setSp v).nmiPending = s.nmiPending := rfl
@[simp] theorem State.setSp_resetPending (s : State) (v : Byte) : (s.setSp v).resetPending = s.resetPending := rfl
@[simp] theorem State.setSp_cycles (s : State) (v : Byte) : (s.setSp v).cycles = s.cycles := rfl
@[simp] theorem State.setSp_refused (s : State) (v : Byte) : (s.setSp v).refused = s.refused := rfl
@[simp] theorem State.setSp_mem (s : State) (v : Byte) : (s.setSp v).mem = s.mem := rfl
@[simp] theorem State.setSp_history (s : State) (v : Byte) : (s.setSp v).history = s.history := rfl
@[simp] theorem State.setSp_devices (s : State) (v : Byte) : (s.setSp v).devices = s.devices := rfl
@[simp] theorem State.setSp_answers (s : State) (v : Byte) : (s.setSp v).answers = s.answers := rfl
@[simp] theorem State.setSp_draws (s : State) (v : Byte) : (s.setSp v).draws = s.draws := rfl

@[simp] theorem State.setA_pc (s : State) (v : Byte) : (s.setA v).pc = s.pc := rfl
@[simp] theorem State.setA_sp (s : State) (v : Byte) : (s.setA v).sp = s.sp := rfl
@[simp] theorem State.setA_a (s : State) (v : Byte) : (s.setA v).a = v := rfl
@[simp] theorem State.setA_x (s : State) (v : Byte) : (s.setA v).x = s.x := rfl
@[simp] theorem State.setA_y (s : State) (v : Byte) : (s.setA v).y = s.y := rfl
@[simp] theorem State.setA_flags (s : State) (v : Byte) : (s.setA v).flags = s.flags := rfl
@[simp] theorem State.setA_power (s : State) (v : Byte) : (s.setA v).power = s.power := rfl
@[simp] theorem State.setA_irqLine (s : State) (v : Byte) : (s.setA v).irqLine = s.irqLine := rfl
@[simp] theorem State.setA_nmiPending (s : State) (v : Byte) : (s.setA v).nmiPending = s.nmiPending := rfl
@[simp] theorem State.setA_resetPending (s : State) (v : Byte) : (s.setA v).resetPending = s.resetPending := rfl
@[simp] theorem State.setA_cycles (s : State) (v : Byte) : (s.setA v).cycles = s.cycles := rfl
@[simp] theorem State.setA_refused (s : State) (v : Byte) : (s.setA v).refused = s.refused := rfl
@[simp] theorem State.setA_mem (s : State) (v : Byte) : (s.setA v).mem = s.mem := rfl
@[simp] theorem State.setA_history (s : State) (v : Byte) : (s.setA v).history = s.history := rfl
@[simp] theorem State.setA_devices (s : State) (v : Byte) : (s.setA v).devices = s.devices := rfl
@[simp] theorem State.setA_answers (s : State) (v : Byte) : (s.setA v).answers = s.answers := rfl
@[simp] theorem State.setA_draws (s : State) (v : Byte) : (s.setA v).draws = s.draws := rfl

@[simp] theorem State.setX_pc (s : State) (v : Byte) : (s.setX v).pc = s.pc := rfl
@[simp] theorem State.setX_sp (s : State) (v : Byte) : (s.setX v).sp = s.sp := rfl
@[simp] theorem State.setX_a (s : State) (v : Byte) : (s.setX v).a = s.a := rfl
@[simp] theorem State.setX_x (s : State) (v : Byte) : (s.setX v).x = v := rfl
@[simp] theorem State.setX_y (s : State) (v : Byte) : (s.setX v).y = s.y := rfl
@[simp] theorem State.setX_flags (s : State) (v : Byte) : (s.setX v).flags = s.flags := rfl
@[simp] theorem State.setX_power (s : State) (v : Byte) : (s.setX v).power = s.power := rfl
@[simp] theorem State.setX_irqLine (s : State) (v : Byte) : (s.setX v).irqLine = s.irqLine := rfl
@[simp] theorem State.setX_nmiPending (s : State) (v : Byte) : (s.setX v).nmiPending = s.nmiPending := rfl
@[simp] theorem State.setX_resetPending (s : State) (v : Byte) : (s.setX v).resetPending = s.resetPending := rfl
@[simp] theorem State.setX_cycles (s : State) (v : Byte) : (s.setX v).cycles = s.cycles := rfl
@[simp] theorem State.setX_refused (s : State) (v : Byte) : (s.setX v).refused = s.refused := rfl
@[simp] theorem State.setX_mem (s : State) (v : Byte) : (s.setX v).mem = s.mem := rfl
@[simp] theorem State.setX_history (s : State) (v : Byte) : (s.setX v).history = s.history := rfl
@[simp] theorem State.setX_devices (s : State) (v : Byte) : (s.setX v).devices = s.devices := rfl
@[simp] theorem State.setX_answers (s : State) (v : Byte) : (s.setX v).answers = s.answers := rfl
@[simp] theorem State.setX_draws (s : State) (v : Byte) : (s.setX v).draws = s.draws := rfl

@[simp] theorem State.setY_pc (s : State) (v : Byte) : (s.setY v).pc = s.pc := rfl
@[simp] theorem State.setY_sp (s : State) (v : Byte) : (s.setY v).sp = s.sp := rfl
@[simp] theorem State.setY_a (s : State) (v : Byte) : (s.setY v).a = s.a := rfl
@[simp] theorem State.setY_x (s : State) (v : Byte) : (s.setY v).x = s.x := rfl
@[simp] theorem State.setY_y (s : State) (v : Byte) : (s.setY v).y = v := rfl
@[simp] theorem State.setY_flags (s : State) (v : Byte) : (s.setY v).flags = s.flags := rfl
@[simp] theorem State.setY_power (s : State) (v : Byte) : (s.setY v).power = s.power := rfl
@[simp] theorem State.setY_irqLine (s : State) (v : Byte) : (s.setY v).irqLine = s.irqLine := rfl
@[simp] theorem State.setY_nmiPending (s : State) (v : Byte) : (s.setY v).nmiPending = s.nmiPending := rfl
@[simp] theorem State.setY_resetPending (s : State) (v : Byte) : (s.setY v).resetPending = s.resetPending := rfl
@[simp] theorem State.setY_cycles (s : State) (v : Byte) : (s.setY v).cycles = s.cycles := rfl
@[simp] theorem State.setY_refused (s : State) (v : Byte) : (s.setY v).refused = s.refused := rfl
@[simp] theorem State.setY_mem (s : State) (v : Byte) : (s.setY v).mem = s.mem := rfl
@[simp] theorem State.setY_history (s : State) (v : Byte) : (s.setY v).history = s.history := rfl
@[simp] theorem State.setY_devices (s : State) (v : Byte) : (s.setY v).devices = s.devices := rfl
@[simp] theorem State.setY_answers (s : State) (v : Byte) : (s.setY v).answers = s.answers := rfl
@[simp] theorem State.setY_draws (s : State) (v : Byte) : (s.setY v).draws = s.draws := rfl

@[simp] theorem State.setFlags_pc (s : State) (f : Flags) : (s.setFlags f).pc = s.pc := rfl
@[simp] theorem State.setFlags_sp (s : State) (f : Flags) : (s.setFlags f).sp = s.sp := rfl
@[simp] theorem State.setFlags_a (s : State) (f : Flags) : (s.setFlags f).a = s.a := rfl
@[simp] theorem State.setFlags_x (s : State) (f : Flags) : (s.setFlags f).x = s.x := rfl
@[simp] theorem State.setFlags_y (s : State) (f : Flags) : (s.setFlags f).y = s.y := rfl
@[simp] theorem State.setFlags_flags (s : State) (f : Flags) : (s.setFlags f).flags = f := rfl
@[simp] theorem State.setFlags_power (s : State) (f : Flags) : (s.setFlags f).power = s.power := rfl
@[simp] theorem State.setFlags_irqLine (s : State) (f : Flags) : (s.setFlags f).irqLine = s.irqLine := rfl
@[simp] theorem State.setFlags_nmiPending (s : State) (f : Flags) : (s.setFlags f).nmiPending = s.nmiPending := rfl
@[simp] theorem State.setFlags_resetPending (s : State) (f : Flags) : (s.setFlags f).resetPending = s.resetPending := rfl
@[simp] theorem State.setFlags_cycles (s : State) (f : Flags) : (s.setFlags f).cycles = s.cycles := rfl
@[simp] theorem State.setFlags_refused (s : State) (f : Flags) : (s.setFlags f).refused = s.refused := rfl
@[simp] theorem State.setFlags_mem (s : State) (f : Flags) : (s.setFlags f).mem = s.mem := rfl
@[simp] theorem State.setFlags_history (s : State) (f : Flags) : (s.setFlags f).history = s.history := rfl
@[simp] theorem State.setFlags_devices (s : State) (f : Flags) : (s.setFlags f).devices = s.devices := rfl
@[simp] theorem State.setFlags_answers (s : State) (f : Flags) : (s.setFlags f).answers = s.answers := rfl
@[simp] theorem State.setFlags_draws (s : State) (f : Flags) : (s.setFlags f).draws = s.draws := rfl

@[simp] theorem State.setNZ_pc (s : State) (v : Byte) : (s.setNZ v).pc = s.pc := rfl
@[simp] theorem State.setNZ_sp (s : State) (v : Byte) : (s.setNZ v).sp = s.sp := rfl
@[simp] theorem State.setNZ_a (s : State) (v : Byte) : (s.setNZ v).a = s.a := rfl
@[simp] theorem State.setNZ_x (s : State) (v : Byte) : (s.setNZ v).x = s.x := rfl
@[simp] theorem State.setNZ_y (s : State) (v : Byte) : (s.setNZ v).y = s.y := rfl
@[simp] theorem State.setNZ_flags (s : State) (v : Byte) : (s.setNZ v).flags = s.flags.setNZ v := rfl
@[simp] theorem State.setNZ_power (s : State) (v : Byte) : (s.setNZ v).power = s.power := rfl
@[simp] theorem State.setNZ_irqLine (s : State) (v : Byte) : (s.setNZ v).irqLine = s.irqLine := rfl
@[simp] theorem State.setNZ_nmiPending (s : State) (v : Byte) : (s.setNZ v).nmiPending = s.nmiPending := rfl
@[simp] theorem State.setNZ_resetPending (s : State) (v : Byte) : (s.setNZ v).resetPending = s.resetPending := rfl
@[simp] theorem State.setNZ_cycles (s : State) (v : Byte) : (s.setNZ v).cycles = s.cycles := rfl
@[simp] theorem State.setNZ_refused (s : State) (v : Byte) : (s.setNZ v).refused = s.refused := rfl
@[simp] theorem State.setNZ_mem (s : State) (v : Byte) : (s.setNZ v).mem = s.mem := rfl
@[simp] theorem State.setNZ_history (s : State) (v : Byte) : (s.setNZ v).history = s.history := rfl
@[simp] theorem State.setNZ_devices (s : State) (v : Byte) : (s.setNZ v).devices = s.devices := rfl
@[simp] theorem State.setNZ_answers (s : State) (v : Byte) : (s.setNZ v).answers = s.answers := rfl
@[simp] theorem State.setNZ_draws (s : State) (v : Byte) : (s.setNZ v).draws = s.draws := rfl

@[simp] theorem State.setI_pc (s : State) (b : Bool) : (s.setI b).pc = s.pc := rfl
@[simp] theorem State.setI_sp (s : State) (b : Bool) : (s.setI b).sp = s.sp := rfl
@[simp] theorem State.setI_a (s : State) (b : Bool) : (s.setI b).a = s.a := rfl
@[simp] theorem State.setI_x (s : State) (b : Bool) : (s.setI b).x = s.x := rfl
@[simp] theorem State.setI_y (s : State) (b : Bool) : (s.setI b).y = s.y := rfl
@[simp] theorem State.setI_flags (s : State) (b : Bool) : (s.setI b).flags = { s.flags with i := b } := rfl
@[simp] theorem State.setI_power (s : State) (b : Bool) : (s.setI b).power = s.power := rfl
@[simp] theorem State.setI_irqLine (s : State) (b : Bool) : (s.setI b).irqLine = s.irqLine := rfl
@[simp] theorem State.setI_nmiPending (s : State) (b : Bool) : (s.setI b).nmiPending = s.nmiPending := rfl
@[simp] theorem State.setI_resetPending (s : State) (b : Bool) : (s.setI b).resetPending = s.resetPending := rfl
@[simp] theorem State.setI_cycles (s : State) (b : Bool) : (s.setI b).cycles = s.cycles := rfl
@[simp] theorem State.setI_refused (s : State) (b : Bool) : (s.setI b).refused = s.refused := rfl
@[simp] theorem State.setI_mem (s : State) (b : Bool) : (s.setI b).mem = s.mem := rfl
@[simp] theorem State.setI_history (s : State) (b : Bool) : (s.setI b).history = s.history := rfl
@[simp] theorem State.setI_devices (s : State) (b : Bool) : (s.setI b).devices = s.devices := rfl
@[simp] theorem State.setI_answers (s : State) (b : Bool) : (s.setI b).answers = s.answers := rfl
@[simp] theorem State.setI_draws (s : State) (b : Bool) : (s.setI b).draws = s.draws := rfl

@[simp] theorem State.poke_pc (s : State) (a : Addr) (v : Byte) : (s.poke a v).pc = s.pc := rfl
@[simp] theorem State.poke_sp (s : State) (a : Addr) (v : Byte) : (s.poke a v).sp = s.sp := rfl
@[simp] theorem State.poke_a (s : State) (a : Addr) (v : Byte) : (s.poke a v).a = s.a := rfl
@[simp] theorem State.poke_x (s : State) (a : Addr) (v : Byte) : (s.poke a v).x = s.x := rfl
@[simp] theorem State.poke_y (s : State) (a : Addr) (v : Byte) : (s.poke a v).y = s.y := rfl
@[simp] theorem State.poke_flags (s : State) (a : Addr) (v : Byte) : (s.poke a v).flags = s.flags := rfl
@[simp] theorem State.poke_power (s : State) (a : Addr) (v : Byte) : (s.poke a v).power = s.power := rfl
@[simp] theorem State.poke_irqLine (s : State) (a : Addr) (v : Byte) : (s.poke a v).irqLine = s.irqLine := rfl
@[simp] theorem State.poke_nmiPending (s : State) (a : Addr) (v : Byte) : (s.poke a v).nmiPending = s.nmiPending := rfl
@[simp] theorem State.poke_resetPending (s : State) (a : Addr) (v : Byte) : (s.poke a v).resetPending = s.resetPending := rfl
@[simp] theorem State.poke_cycles (s : State) (a : Addr) (v : Byte) : (s.poke a v).cycles = s.cycles := rfl
@[simp] theorem State.poke_refused (s : State) (a : Addr) (v : Byte) : (s.poke a v).refused = s.refused := rfl
@[simp] theorem State.poke_mem (s : State) (a : Addr) (v : Byte) : (s.poke a v).mem = s.mem.write a.toNat v := rfl
@[simp] theorem State.poke_history (s : State) (a : Addr) (v : Byte) : (s.poke a v).history = s.history := rfl
@[simp] theorem State.poke_devices (s : State) (a : Addr) (v : Byte) : (s.poke a v).devices = s.devices := rfl
@[simp] theorem State.poke_answers (s : State) (a : Addr) (v : Byte) : (s.poke a v).answers = s.answers := rfl
@[simp] theorem State.poke_draws (s : State) (a : Addr) (v : Byte) : (s.poke a v).draws = s.draws := rfl

@[simp] theorem State.record_pc (s : State) (x : Access) : (s.record x).pc = s.pc := rfl
@[simp] theorem State.record_sp (s : State) (x : Access) : (s.record x).sp = s.sp := rfl
@[simp] theorem State.record_a (s : State) (x : Access) : (s.record x).a = s.a := rfl
@[simp] theorem State.record_x (s : State) (x : Access) : (s.record x).x = s.x := rfl
@[simp] theorem State.record_y (s : State) (x : Access) : (s.record x).y = s.y := rfl
@[simp] theorem State.record_flags (s : State) (x : Access) : (s.record x).flags = s.flags := rfl
@[simp] theorem State.record_power (s : State) (x : Access) : (s.record x).power = s.power := rfl
@[simp] theorem State.record_irqLine (s : State) (x : Access) : (s.record x).irqLine = s.irqLine := rfl
@[simp] theorem State.record_nmiPending (s : State) (x : Access) : (s.record x).nmiPending = s.nmiPending := rfl
@[simp] theorem State.record_resetPending (s : State) (x : Access) : (s.record x).resetPending = s.resetPending := rfl
@[simp] theorem State.record_cycles (s : State) (x : Access) : (s.record x).cycles = s.cycles := rfl
@[simp] theorem State.record_refused (s : State) (x : Access) : (s.record x).refused = s.refused := rfl
@[simp] theorem State.record_mem (s : State) (x : Access) : (s.record x).mem = s.mem := rfl
@[simp] theorem State.record_history (s : State) (x : Access) : (s.record x).history = x :: s.history := rfl
@[simp] theorem State.record_devices (s : State) (x : Access) : (s.record x).devices = s.devices := rfl
@[simp] theorem State.record_answers (s : State) (x : Access) : (s.record x).answers = s.answers := rfl
@[simp] theorem State.record_draws (s : State) (x : Access) : (s.record x).draws = s.draws := rfl

/-! ### The refusal mark -/

@[simp] theorem State.refuse_pc (s : State) (r : Refusal) : (s.refuse r).pc = s.pc := by
  unfold State.refuse; split <;> rfl
@[simp] theorem State.refuse_sp (s : State) (r : Refusal) : (s.refuse r).sp = s.sp := by
  unfold State.refuse; split <;> rfl
@[simp] theorem State.refuse_a (s : State) (r : Refusal) : (s.refuse r).a = s.a := by
  unfold State.refuse; split <;> rfl
@[simp] theorem State.refuse_x (s : State) (r : Refusal) : (s.refuse r).x = s.x := by
  unfold State.refuse; split <;> rfl
@[simp] theorem State.refuse_y (s : State) (r : Refusal) : (s.refuse r).y = s.y := by
  unfold State.refuse; split <;> rfl
@[simp] theorem State.refuse_flags (s : State) (r : Refusal) : (s.refuse r).flags = s.flags := by
  unfold State.refuse; split <;> rfl
@[simp] theorem State.refuse_power (s : State) (r : Refusal) : (s.refuse r).power = s.power := by
  unfold State.refuse; split <;> rfl
@[simp] theorem State.refuse_irqLine (s : State) (r : Refusal) : (s.refuse r).irqLine = s.irqLine := by
  unfold State.refuse; split <;> rfl
@[simp] theorem State.refuse_nmiPending (s : State) (r : Refusal) : (s.refuse r).nmiPending = s.nmiPending := by
  unfold State.refuse; split <;> rfl
@[simp] theorem State.refuse_resetPending (s : State) (r : Refusal) : (s.refuse r).resetPending = s.resetPending := by
  unfold State.refuse; split <;> rfl
@[simp] theorem State.refuse_cycles (s : State) (r : Refusal) : (s.refuse r).cycles = s.cycles := by
  unfold State.refuse; split <;> rfl
@[simp] theorem State.refuse_mem (s : State) (r : Refusal) : (s.refuse r).mem = s.mem := by
  unfold State.refuse; split <;> rfl
@[simp] theorem State.refuse_history (s : State) (r : Refusal) : (s.refuse r).history = s.history := by
  unfold State.refuse; split <;> rfl
@[simp] theorem State.refuse_devices (s : State) (r : Refusal) : (s.refuse r).devices = s.devices := by
  unfold State.refuse; split <;> rfl
@[simp] theorem State.refuse_answers (s : State) (r : Refusal) : (s.refuse r).answers = s.answers := by
  unfold State.refuse; split <;> rfl
@[simp] theorem State.refuse_draws (s : State) (r : Refusal) : (s.refuse r).draws = s.draws := by
  unfold State.refuse; split <;> rfl

/-- The mark is set after `refuse`, whatever it was (40_execution_loop.md R141). -/
theorem State.refuse_refused (s : State) (r : Refusal) : (s.refuse r).refused = some (s.refused.getD r) := by
  unfold State.refuse; split <;> simp_all

/-! ### The flags -/

@[simp] theorem Flags.setNZ_n (f : Flags) (v : Byte) : (f.setNZ v).n = bitOf v 7 := rfl
@[simp] theorem Flags.setNZ_z (f : Flags) (v : Byte) : (f.setNZ v).z = (v == 0) := rfl
@[simp] theorem Flags.setNZ_v (f : Flags) (v : Byte) : (f.setNZ v).v = f.v := rfl
@[simp] theorem Flags.setNZ_d (f : Flags) (v : Byte) : (f.setNZ v).d = f.d := rfl
@[simp] theorem Flags.setNZ_i (f : Flags) (v : Byte) : (f.setNZ v).i = f.i := rfl
@[simp] theorem Flags.setNZ_c (f : Flags) (v : Byte) : (f.setNZ v).c = f.c := rfl

@[simp] theorem addBinary_d (a m : Byte) (f : Flags) : (addBinary a m f).2.d = f.d := rfl
@[simp] theorem addBinary_i (a m : Byte) (f : Flags) : (addBinary a m f).2.i = f.i := rfl
@[simp] theorem subBinary_d (a m : Byte) (f : Flags) : (subBinary a m f).2.d = f.d := rfl
@[simp] theorem subBinary_i (a m : Byte) (f : Flags) : (subBinary a m f).2.i = f.i := rfl
@[simp] theorem decimalAdd_d (a m : Byte) (f : Flags) : (decimalAdd a m f).2.d = f.d := rfl
@[simp] theorem decimalAdd_i (a m : Byte) (f : Flags) : (decimalAdd a m f).2.i = f.i := rfl
@[simp] theorem addWithCarry_d (a m : Byte) (f : Flags) : (addWithCarry a m f).2.d = f.d := by
  unfold addWithCarry; split <;> rfl
@[simp] theorem addWithCarry_i (a m : Byte) (f : Flags) : (addWithCarry a m f).2.i = f.i := by
  unfold addWithCarry; split <;> rfl
@[simp] theorem subWithBorrow_d (a m : Byte) (f : Flags) : (subWithBorrow a m f).2.d = f.d := by
  unfold subWithBorrow; split <;> rfl
@[simp] theorem subWithBorrow_i (a m : Byte) (f : Flags) : (subWithBorrow a m f).2.i = f.i := by
  unfold subWithBorrow; split <;> rfl
@[simp] theorem compareFlags_v (r m : Byte) (f : Flags) : (compareFlags r m f).v = f.v := rfl
@[simp] theorem compareFlags_d (r m : Byte) (f : Flags) : (compareFlags r m f).d = f.d := rfl
@[simp] theorem compareFlags_i (r m : Byte) (f : Flags) : (compareFlags r m f).i = f.i := rfl
@[simp] theorem bitTestFlags_d (a m : Byte) (f : Flags) : (bitTestFlags a m f).d = f.d := rfl
@[simp] theorem bitTestFlags_i (a m : Byte) (f : Flags) : (bitTestFlags a m f).i = f.i := rfl
@[simp] theorem bitTestFlags_c (a m : Byte) (f : Flags) : (bitTestFlags a m f).c = f.c := rfl
@[simp] theorem shiftLeft_v (v : Byte) (f : Flags) : (shiftLeft v f).2.v = f.v := rfl
@[simp] theorem shiftLeft_d (v : Byte) (f : Flags) : (shiftLeft v f).2.d = f.d := rfl
@[simp] theorem shiftLeft_i (v : Byte) (f : Flags) : (shiftLeft v f).2.i = f.i := rfl
@[simp] theorem shiftRight_v (v : Byte) (f : Flags) : (shiftRight v f).2.v = f.v := rfl
@[simp] theorem shiftRight_d (v : Byte) (f : Flags) : (shiftRight v f).2.d = f.d := rfl
@[simp] theorem shiftRight_i (v : Byte) (f : Flags) : (shiftRight v f).2.i = f.i := rfl
@[simp] theorem rotateLeft_v (v : Byte) (f : Flags) : (rotateLeft v f).2.v = f.v := rfl
@[simp] theorem rotateLeft_d (v : Byte) (f : Flags) : (rotateLeft v f).2.d = f.d := rfl
@[simp] theorem rotateLeft_i (v : Byte) (f : Flags) : (rotateLeft v f).2.i = f.i := rfl
@[simp] theorem rotateRight_v (v : Byte) (f : Flags) : (rotateRight v f).2.v = f.v := rfl
@[simp] theorem rotateRight_d (v : Byte) (f : Flags) : (rotateRight v f).2.d = f.d := rfl
@[simp] theorem rotateRight_i (v : Byte) (f : Flags) : (rotateRight v f).2.i = f.i := rfl
@[simp] theorem incrementByte_v (v : Byte) (f : Flags) : (incrementByte v f).2.v = f.v := rfl
@[simp] theorem incrementByte_d (v : Byte) (f : Flags) : (incrementByte v f).2.d = f.d := rfl
@[simp] theorem incrementByte_i (v : Byte) (f : Flags) : (incrementByte v f).2.i = f.i := rfl
@[simp] theorem incrementByte_c (v : Byte) (f : Flags) : (incrementByte v f).2.c = f.c := rfl
@[simp] theorem decrementByte_v (v : Byte) (f : Flags) : (decrementByte v f).2.v = f.v := rfl
@[simp] theorem decrementByte_d (v : Byte) (f : Flags) : (decrementByte v f).2.d = f.d := rfl
@[simp] theorem decrementByte_i (v : Byte) (f : Flags) : (decrementByte v f).2.i = f.i := rfl
@[simp] theorem decrementByte_c (v : Byte) (f : Flags) : (decrementByte v f).2.c = f.c := rfl

/-- A pulled copy of a pushed flag byte holds the flags that were pushed, whatever the break bit
(10_state.md R45, R46). -/
theorem unpack_pushedFlags (b : Bool) (f : Flags) : Flags.unpack (pushedFlags b f) = f := by
  rcases f with ⟨n, v, d, i, z, c⟩
  cases b <;> cases n <;> cases v <;> cases d <;> cases i <;> cases z <;> cases c <;> rfl

end Sys2Proof.Machine
end

