-- ==== Sys2Proof/Laws/Memory.lean ====
section
/-!
SUPPORT. The laws of the canonical memory: a read after a write, and that every memory operation keeps the form.
-/

namespace Sys2Proof.Machine

open Sys2Proof

theorem Memory.read_erase_same (m : Memory) (a : Nat) : (m.erase a).read a = Memory.unlisted := by
  induction m with
  | nil => rfl
  | cons cell rest ih =>
    obtain ⟨k, w⟩ := cell
    by_cases h : k = a
    · subst h; simpa [Memory.erase] using ih
    · simpa [Memory.erase, Memory.read, h] using ih

theorem Memory.read_erase_other (m : Memory) {a b : Nat} (h : b ≠ a) : (m.erase a).read b = m.read b := by
  induction m with
  | nil => rfl
  | cons cell rest ih =>
    obtain ⟨k, w⟩ := cell
    by_cases hk : k = a
    · subst hk; simpa [Memory.erase, Memory.read, h.symm] using ih
    · simp only [Memory.erase, List.filter_cons, bne_iff_ne, ne_eq, hk, not_false_eq_true, if_true, Memory.read]
      split
      · rfl
      · simpa [Memory.erase] using ih

theorem Memory.read_insert_other (m : Memory) {a b : Nat} (v : Byte) (h : b ≠ a) :
    (m.insert a v).read b = m.read b := by
  induction m with
  | nil => simp [Memory.insert, Memory.read, h.symm]
  | cons cell rest ih =>
    obtain ⟨k, w⟩ := cell
    by_cases hk : a < k
    · simp [Memory.insert, Memory.read, hk, h.symm]
    · simp [Memory.insert, Memory.read, hk, ih]

theorem Memory.read_insert_same (m : Memory) (a : Nat) (v : Byte) (h : ∀ cell ∈ m, cell.1 ≠ a) :
    (m.insert a v).read a = v := by
  induction m with
  | nil => simp [Memory.insert, Memory.read]
  | cons cell rest ih =>
    obtain ⟨k, w⟩ := cell
    by_cases hk : a < k
    · simp [Memory.insert, Memory.read, hk]
    · have hne : k ≠ a := h (k, w) (by simp)
      simp [Memory.insert, Memory.read, hk, hne, ih (fun c hc => h c (by simp [hc]))]

/-- Reading any address after a write (the last byte written is what is read, 20_memory.md R71's plain RAM). -/
theorem Memory.read_write (m : Memory) (a b : Nat) (v : Byte) :
    (m.write a v).read b = if b = a then v else m.read b := by
  unfold Memory.write
  split
  · rename_i hv
    split
    · rename_i hb; rw [hb, Memory.read_erase_same, hv]
    · rename_i hb; exact Memory.read_erase_other m hb
  · split
    · rename_i hb
      rw [hb]
      exact Memory.read_insert_same _ _ _ (by simp [Memory.erase])
    · rename_i hb
      rw [Memory.read_insert_other _ _ hb, Memory.read_erase_other m hb]

/-- The canonical form as a proposition. -/
theorem Memory.wf_iff (m : Memory) :
    m.wf = true ↔ m.Pairwise (fun p q => p.1 < q.1) ∧ ∀ cell ∈ m, cell.1 < 65536 ∧ cell.2 ≠ Memory.unlisted := by
  simp [Memory.wf]

theorem Memory.mem_insert (m : Memory) (a : Nat) (v : Byte) (cell : Host.Cell) :
    cell ∈ m.insert a v ↔ cell = (a, v) ∨ cell ∈ m := by
  induction m with
  | nil => simp [Memory.insert]
  | cons c rest ih =>
    obtain ⟨k, w⟩ := c
    by_cases hk : a < k
    · simp [Memory.insert, hk]
    · simp [Memory.insert, hk, ih, or_left_comm]

theorem Memory.insert_sorted (m : Memory) (a : Nat) (v : Byte)
    (hs : m.Pairwise (fun p q => p.1 < q.1)) (hne : ∀ cell ∈ m, cell.1 ≠ a) :
    (m.insert a v).Pairwise (fun p q => p.1 < q.1) := by
  induction m with
  | nil => simp [Memory.insert]
  | cons c rest ih =>
    obtain ⟨k, w⟩ := c
    rw [List.pairwise_cons] at hs
    have hk' : k ≠ a := hne (k, w) (by simp)
    by_cases hk : a < k
    · simp only [Memory.insert, hk, if_true, List.pairwise_cons]
      refine ⟨?_, hs⟩
      intro c hc
      rcases List.mem_cons.1 hc with rfl | hc
      · exact hk
      · exact lt_trans hk (hs.1 c hc)
    · simp only [Memory.insert, hk, if_false, List.pairwise_cons]
      refine ⟨?_, ih hs.2 (fun c hc => hne c (by simp [hc]))⟩
      intro c hc
      rcases (Memory.mem_insert _ _ _ _).1 hc with rfl | hc
      · show k < a; omega
      · exact hs.1 c hc

/-- Taking a cell out keeps the canonical form. -/
theorem Memory.wf_erase (m : Memory) (a : Nat) (h : m.wf = true) : (m.erase a).wf = true := by
  rw [Memory.wf_iff] at h ⊢
  exact ⟨h.1.filter _, fun c hc => h.2 c (List.mem_filter.1 hc).1⟩

/-- A write keeps the canonical form. -/
theorem Memory.wf_write (m : Memory) {a : Nat} (v : Byte) (ha : a < 65536) (h : m.wf = true) :
    (m.write a v).wf = true := by
  unfold Memory.write
  split
  · exact Memory.wf_erase m a h
  · rename_i hv
    have he := Memory.wf_erase m a h
    rw [Memory.wf_iff] at he ⊢
    refine ⟨Memory.insert_sorted _ _ _ he.1 (by simp [Memory.erase]), ?_⟩
    intro c hc
    rcases (Memory.mem_insert _ _ _ _).1 hc with rfl | hc
    · exact ⟨ha, hv⟩
    · exact he.2 c hc

@[simp] theorem Memory.wf_nil : Memory.wf [] = true := rfl

/-- Plain RAM: the byte at `b` after a byte has been put at `a`. -/
theorem State.peek_poke (s : State) (a b : Addr) (v : Byte) :
    (s.poke a v).peek b = if b = a then v else s.peek b := by
  simp only [State.peek, State.poke, Memory.read_write, BitVec.toNat_inj]

/-- A byte put into plain RAM keeps the canonical form. -/
theorem State.poke_wf (s : State) (a : Addr) (v : Byte) (h : s.mem.wf = true) : (s.poke a v).mem.wf = true :=
  Memory.wf_write _ _ a.isLt h

/-- What plain RAM holds depends on the memory only. -/
theorem State.peek_congr {s t : State} (h : t.mem = s.mem) (a : Addr) : t.peek a = s.peek a := by
  simp [State.peek, h]

end Sys2Proof.Machine
end

