-- ==== Sys2Proof/Laws/Ops.lean ====
section
/-!
SUPPORT. What the shared operations leave alone, one lemma per field, in every state (a device may change only the NMI
latch, the IRQ line, the refusal mark and its own answers); what each does to the fields it writes; and what each is on
plain RAM (20_memory.md R89).
-/

namespace Sys2Proof.Machine

open Sys2Proof

/-! ### Host calls from inside an access -/

@[simp] theorem State.callback_pc (s : State) (c : HostCall) : (s.callback c).pc = s.pc := by
  cases c <;> simp [State.callback]
@[simp] theorem State.callback_sp (s : State) (c : HostCall) : (s.callback c).sp = s.sp := by
  cases c <;> simp [State.callback]
@[simp] theorem State.callback_a (s : State) (c : HostCall) : (s.callback c).a = s.a := by
  cases c <;> simp [State.callback]
@[simp] theorem State.callback_x (s : State) (c : HostCall) : (s.callback c).x = s.x := by
  cases c <;> simp [State.callback]
@[simp] theorem State.callback_y (s : State) (c : HostCall) : (s.callback c).y = s.y := by
  cases c <;> simp [State.callback]
@[simp] theorem State.callback_flags (s : State) (c : HostCall) : (s.callback c).flags = s.flags := by
  cases c <;> simp [State.callback]
@[simp] theorem State.callback_power (s : State) (c : HostCall) : (s.callback c).power = s.power := by
  cases c <;> simp [State.callback]
@[simp] theorem State.callback_resetPending (s : State) (c : HostCall) : (s.callback c).resetPending = s.resetPending := by
  cases c <;> simp [State.callback]
@[simp] theorem State.callback_cycles (s : State) (c : HostCall) : (s.callback c).cycles = s.cycles := by
  cases c <;> simp [State.callback]
@[simp] theorem State.callback_mem (s : State) (c : HostCall) : (s.callback c).mem = s.mem := by
  cases c <;> simp [State.callback]
@[simp] theorem State.callback_devices (s : State) (c : HostCall) : (s.callback c).devices = s.devices := by
  cases c <;> simp [State.callback]
@[simp] theorem State.callback_draws (s : State) (c : HostCall) : (s.callback c).draws = s.draws := by
  cases c <;> simp [State.callback]
@[simp] theorem State.callback_history (s : State) (c : HostCall) : (s.callback c).history = s.history := by
  cases c <;> simp [State.callback]

@[simp] theorem callbacks_pc (l : List HostCall) (s : State) : (l.foldl State.callback s).pc = s.pc := by
  induction l generalizing s with
  | nil => rfl
  | cons c l ih => simp [ih]
@[simp] theorem callbacks_sp (l : List HostCall) (s : State) : (l.foldl State.callback s).sp = s.sp := by
  induction l generalizing s with
  | nil => rfl
  | cons c l ih => simp [ih]
@[simp] theorem callbacks_a (l : List HostCall) (s : State) : (l.foldl State.callback s).a = s.a := by
  induction l generalizing s with
  | nil => rfl
  | cons c l ih => simp [ih]
@[simp] theorem callbacks_x (l : List HostCall) (s : State) : (l.foldl State.callback s).x = s.x := by
  induction l generalizing s with
  | nil => rfl
  | cons c l ih => simp [ih]
@[simp] theorem callbacks_y (l : List HostCall) (s : State) : (l.foldl State.callback s).y = s.y := by
  induction l generalizing s with
  | nil => rfl
  | cons c l ih => simp [ih]
@[simp] theorem callbacks_flags (l : List HostCall) (s : State) : (l.foldl State.callback s).flags = s.flags := by
  induction l generalizing s with
  | nil => rfl
  | cons c l ih => simp [ih]
@[simp] theorem callbacks_power (l : List HostCall) (s : State) : (l.foldl State.callback s).power = s.power := by
  induction l generalizing s with
  | nil => rfl
  | cons c l ih => simp [ih]
@[simp] theorem callbacks_resetPending (l : List HostCall) (s : State) : (l.foldl State.callback s).resetPending = s.resetPending := by
  induction l generalizing s with
  | nil => rfl
  | cons c l ih => simp [ih]
@[simp] theorem callbacks_cycles (l : List HostCall) (s : State) : (l.foldl State.callback s).cycles = s.cycles := by
  induction l generalizing s with
  | nil => rfl
  | cons c l ih => simp [ih]
@[simp] theorem callbacks_mem (l : List HostCall) (s : State) : (l.foldl State.callback s).mem = s.mem := by
  induction l generalizing s with
  | nil => rfl
  | cons c l ih => simp [ih]
@[simp] theorem callbacks_devices (l : List HostCall) (s : State) : (l.foldl State.callback s).devices = s.devices := by
  induction l generalizing s with
  | nil => rfl
  | cons c l ih => simp [ih]
@[simp] theorem callbacks_draws (l : List HostCall) (s : State) : (l.foldl State.callback s).draws = s.draws := by
  induction l generalizing s with
  | nil => rfl
  | cons c l ih => simp [ih]
@[simp] theorem callbacks_history (l : List HostCall) (s : State) : (l.foldl State.callback s).history = s.history := by
  induction l generalizing s with
  | nil => rfl
  | cons c l ih => simp [ih]

@[simp] theorem State.takeAnswer_pc (s : State) : s.takeAnswer.pc = s.pc := by simp [State.takeAnswer]
@[simp] theorem State.takeAnswer_sp (s : State) : s.takeAnswer.sp = s.sp := by simp [State.takeAnswer]
@[simp] theorem State.takeAnswer_a (s : State) : s.takeAnswer.a = s.a := by simp [State.takeAnswer]
@[simp] theorem State.takeAnswer_x (s : State) : s.takeAnswer.x = s.x := by simp [State.takeAnswer]
@[simp] theorem State.takeAnswer_y (s : State) : s.takeAnswer.y = s.y := by simp [State.takeAnswer]
@[simp] theorem State.takeAnswer_flags (s : State) : s.takeAnswer.flags = s.flags := by simp [State.takeAnswer]
@[simp] theorem State.takeAnswer_power (s : State) : s.takeAnswer.power = s.power := by simp [State.takeAnswer]
@[simp] theorem State.takeAnswer_resetPending (s : State) : s.takeAnswer.resetPending = s.resetPending := by simp [State.takeAnswer]
@[simp] theorem State.takeAnswer_cycles (s : State) : s.takeAnswer.cycles = s.cycles := by simp [State.takeAnswer]
@[simp] theorem State.takeAnswer_mem (s : State) : s.takeAnswer.mem = s.mem := by simp [State.takeAnswer]
@[simp] theorem State.takeAnswer_devices (s : State) : s.takeAnswer.devices = s.devices := by simp [State.takeAnswer]
@[simp] theorem State.takeAnswer_draws (s : State) : s.takeAnswer.draws = s.draws := by simp [State.takeAnswer]
@[simp] theorem State.takeAnswer_history (s : State) : s.takeAnswer.history = s.history := by simp [State.takeAnswer]

/-! ### One access -/

@[simp] theorem busRead_pc (b : Addr) (s : State) : (busRead b s).2.pc = s.pc := by unfold busRead; split <;> simp
@[simp] theorem busRead_sp (b : Addr) (s : State) : (busRead b s).2.sp = s.sp := by unfold busRead; split <;> simp
@[simp] theorem busRead_a (b : Addr) (s : State) : (busRead b s).2.a = s.a := by unfold busRead; split <;> simp
@[simp] theorem busRead_x (b : Addr) (s : State) : (busRead b s).2.x = s.x := by unfold busRead; split <;> simp
@[simp] theorem busRead_y (b : Addr) (s : State) : (busRead b s).2.y = s.y := by unfold busRead; split <;> simp
@[simp] theorem busRead_flags (b : Addr) (s : State) : (busRead b s).2.flags = s.flags := by unfold busRead; split <;> simp
@[simp] theorem busRead_power (b : Addr) (s : State) : (busRead b s).2.power = s.power := by unfold busRead; split <;> simp
@[simp] theorem busRead_resetPending (b : Addr) (s : State) : (busRead b s).2.resetPending = s.resetPending := by unfold busRead; split <;> simp
@[simp] theorem busRead_cycles (b : Addr) (s : State) : (busRead b s).2.cycles = s.cycles := by unfold busRead; split <;> simp
@[simp] theorem busRead_mem (b : Addr) (s : State) : (busRead b s).2.mem = s.mem := by unfold busRead; split <;> simp
@[simp] theorem busRead_devices (b : Addr) (s : State) : (busRead b s).2.devices = s.devices := by unfold busRead; split <;> simp
@[simp] theorem busRead_draws (b : Addr) (s : State) : (busRead b s).2.draws = s.draws := by unfold busRead; split <;> simp

@[simp] theorem busWrite_pc (b : Addr) (v : Byte) (s : State) : (busWrite b v s).pc = s.pc := by unfold busWrite; split <;> simp
@[simp] theorem busWrite_sp (b : Addr) (v : Byte) (s : State) : (busWrite b v s).sp = s.sp := by unfold busWrite; split <;> simp
@[simp] theorem busWrite_a (b : Addr) (v : Byte) (s : State) : (busWrite b v s).a = s.a := by unfold busWrite; split <;> simp
@[simp] theorem busWrite_x (b : Addr) (v : Byte) (s : State) : (busWrite b v s).x = s.x := by unfold busWrite; split <;> simp
@[simp] theorem busWrite_y (b : Addr) (v : Byte) (s : State) : (busWrite b v s).y = s.y := by unfold busWrite; split <;> simp
@[simp] theorem busWrite_flags (b : Addr) (v : Byte) (s : State) : (busWrite b v s).flags = s.flags := by unfold busWrite; split <;> simp
@[simp] theorem busWrite_power (b : Addr) (v : Byte) (s : State) : (busWrite b v s).power = s.power := by unfold busWrite; split <;> simp
@[simp] theorem busWrite_resetPending (b : Addr) (v : Byte) (s : State) : (busWrite b v s).resetPending = s.resetPending := by unfold busWrite; split <;> simp
@[simp] theorem busWrite_cycles (b : Addr) (v : Byte) (s : State) : (busWrite b v s).cycles = s.cycles := by unfold busWrite; split <;> simp
@[simp] theorem busWrite_devices (b : Addr) (v : Byte) (s : State) : (busWrite b v s).devices = s.devices := by unfold busWrite; split <;> simp
@[simp] theorem busWrite_draws (b : Addr) (v : Byte) (s : State) : (busWrite b v s).draws = s.draws := by unfold busWrite; split <;> simp

/-- A read appends itself to the history, with the value it answers (20_memory.md R71). -/
@[simp] theorem busRead_history (b : Addr) (s : State) :
    (busRead b s).2.history = .read b (busRead b s).1 :: s.history := by unfold busRead; split <;> simp

/-- A write appends itself to the history (20_memory.md R72). -/
@[simp] theorem busWrite_history (b : Addr) (v : Byte) (s : State) :
    (busWrite b v s).history = .write b v :: s.history := by unfold busWrite; split <;> simp

/-- A read keeps what plain RAM holds. -/
@[simp] theorem busRead_peek (b c : Addr) (s : State) : (busRead b s).2.peek c = s.peek c :=
  State.peek_congr (busRead_mem b s) c

/-- A write leaves every other byte of plain RAM alone. -/
theorem busWrite_peek_other (b c : Addr) (v : Byte) (s : State) (h : c ≠ b) :
    (busWrite b v s).peek c = s.peek c := by
  unfold busWrite
  split
  · exact State.peek_congr (by simp) c
  · rw [State.peek_congr (s := s.poke b v) (by simp), State.peek_poke, if_neg h]

/-- A write keeps the canonical form. -/
theorem busWrite_wf (b : Addr) (v : Byte) (s : State) (h : s.mem.wf = true) : (busWrite b v s).mem.wf = true := by
  unfold busWrite
  split
  · simpa using h
  · simpa using State.poke_wf s b v h

theorem isDevice_plain {s : State} (h : s.devices = []) (b : Addr) : s.isDevice b = false := by
  simp [State.isDevice, h]

theorem busRead_plain {s : State} (h : s.devices = []) (b : Addr) :
    busRead b s = (s.peek b, s.record (.read b (s.peek b))) := by
  simp [busRead, isDevice_plain h]

theorem busWrite_plain {s : State} (h : s.devices = []) (b : Addr) (v : Byte) :
    busWrite b v s = (s.poke b v).record (.write b v) := by
  simp [busWrite, isDevice_plain h]

@[simp] theorem State.peek_record (s : State) (x : Access) (b : Addr) : (s.record x).peek b = s.peek b := rfl

/-! ### Two reads -/

@[simp] theorem busRead16_pc (b : Addr) (s : State) : (busRead16 b s).2.pc = s.pc := by simp [busRead16]
@[simp] theorem busRead16_sp (b : Addr) (s : State) : (busRead16 b s).2.sp = s.sp := by simp [busRead16]
@[simp] theorem busRead16_a (b : Addr) (s : State) : (busRead16 b s).2.a = s.a := by simp [busRead16]
@[simp] theorem busRead16_x (b : Addr) (s : State) : (busRead16 b s).2.x = s.x := by simp [busRead16]
@[simp] theorem busRead16_y (b : Addr) (s : State) : (busRead16 b s).2.y = s.y := by simp [busRead16]
@[simp] theorem busRead16_flags (b : Addr) (s : State) : (busRead16 b s).2.flags = s.flags := by simp [busRead16]
@[simp] theorem busRead16_power (b : Addr) (s : State) : (busRead16 b s).2.power = s.power := by simp [busRead16]
@[simp] theorem busRead16_resetPending (b : Addr) (s : State) : (busRead16 b s).2.resetPending = s.resetPending := by simp [busRead16]
@[simp] theorem busRead16_cycles (b : Addr) (s : State) : (busRead16 b s).2.cycles = s.cycles := by simp [busRead16]
@[simp] theorem busRead16_mem (b : Addr) (s : State) : (busRead16 b s).2.mem = s.mem := by simp [busRead16]
@[simp] theorem busRead16_devices (b : Addr) (s : State) : (busRead16 b s).2.devices = s.devices := by simp [busRead16]
@[simp] theorem busRead16_draws (b : Addr) (s : State) : (busRead16 b s).2.draws = s.draws := by simp [busRead16]

@[simp] theorem zeroPagePointer_pc (p : Byte) (s : State) : (zeroPagePointer p s).2.pc = s.pc := by simp [zeroPagePointer]
@[simp] theorem zeroPagePointer_sp (p : Byte) (s : State) : (zeroPagePointer p s).2.sp = s.sp := by simp [zeroPagePointer]
@[simp] theorem zeroPagePointer_a (p : Byte) (s : State) : (zeroPagePointer p s).2.a = s.a := by simp [zeroPagePointer]
@[simp] theorem zeroPagePointer_x (p : Byte) (s : State) : (zeroPagePointer p s).2.x = s.x := by simp [zeroPagePointer]
@[simp] theorem zeroPagePointer_y (p : Byte) (s : State) : (zeroPagePointer p s).2.y = s.y := by simp [zeroPagePointer]
@[simp] theorem zeroPagePointer_flags (p : Byte) (s : State) : (zeroPagePointer p s).2.flags = s.flags := by simp [zeroPagePointer]
@[simp] theorem zeroPagePointer_power (p : Byte) (s : State) : (zeroPagePointer p s).2.power = s.power := by simp [zeroPagePointer]
@[simp] theorem zeroPagePointer_resetPending (p : Byte) (s : State) : (zeroPagePointer p s).2.resetPending = s.resetPending := by simp [zeroPagePointer]
@[simp] theorem zeroPagePointer_cycles (p : Byte) (s : State) : (zeroPagePointer p s).2.cycles = s.cycles := by simp [zeroPagePointer]
@[simp] theorem zeroPagePointer_mem (p : Byte) (s : State) : (zeroPagePointer p s).2.mem = s.mem := by simp [zeroPagePointer]
@[simp] theorem zeroPagePointer_devices (p : Byte) (s : State) : (zeroPagePointer p s).2.devices = s.devices := by simp [zeroPagePointer]
@[simp] theorem zeroPagePointer_draws (p : Byte) (s : State) : (zeroPagePointer p s).2.draws = s.draws := by simp [zeroPagePointer]

@[simp] theorem indirectPointer_pc (p : Addr) (s : State) : (indirectPointer p s).2.pc = s.pc := by simp [indirectPointer]
@[simp] theorem indirectPointer_sp (p : Addr) (s : State) : (indirectPointer p s).2.sp = s.sp := by simp [indirectPointer]
@[simp] theorem indirectPointer_a (p : Addr) (s : State) : (indirectPointer p s).2.a = s.a := by simp [indirectPointer]
@[simp] theorem indirectPointer_x (p : Addr) (s : State) : (indirectPointer p s).2.x = s.x := by simp [indirectPointer]
@[simp] theorem indirectPointer_y (p : Addr) (s : State) : (indirectPointer p s).2.y = s.y := by simp [indirectPointer]
@[simp] theorem indirectPointer_flags (p : Addr) (s : State) : (indirectPointer p s).2.flags = s.flags := by simp [indirectPointer]
@[simp] theorem indirectPointer_power (p : Addr) (s : State) : (indirectPointer p s).2.power = s.power := by simp [indirectPointer]
@[simp] theorem indirectPointer_resetPending (p : Addr) (s : State) : (indirectPointer p s).2.resetPending = s.resetPending := by simp [indirectPointer]
@[simp] theorem indirectPointer_cycles (p : Addr) (s : State) : (indirectPointer p s).2.cycles = s.cycles := by simp [indirectPointer]
@[simp] theorem indirectPointer_mem (p : Addr) (s : State) : (indirectPointer p s).2.mem = s.mem := by simp [indirectPointer]
@[simp] theorem indirectPointer_devices (p : Addr) (s : State) : (indirectPointer p s).2.devices = s.devices := by simp [indirectPointer]
@[simp] theorem indirectPointer_draws (p : Addr) (s : State) : (indirectPointer p s).2.draws = s.draws := by simp [indirectPointer]

theorem busRead16_plain {s : State} (h : s.devices = []) (b : Addr) :
    busRead16 b s = (joinBytes (s.peek (b + 1)) (s.peek b),
      (s.record (.read b (s.peek b))).record (.read (b + 1) (s.peek (b + 1)))) := by
  simp [busRead16, busRead_plain, h]

theorem zeroPagePointer_plain {s : State} (h : s.devices = []) (p : Byte) :
    zeroPagePointer p s = (joinBytes (s.peek (zeroPage (p + 1))) (s.peek (zeroPage p)),
      (s.record (.read (zeroPage p) (s.peek (zeroPage p)))).record
        (.read (zeroPage (p + 1)) (s.peek (zeroPage (p + 1))))) := by
  simp [zeroPagePointer, busRead_plain, h]

theorem indirectPointer_plain {s : State} (h : s.devices = []) (p : Addr) :
    indirectPointer p s =
      (joinBytes (s.peek (joinBytes (highByte p) (lowByte p + 1))) (s.peek p),
        (s.record (.read p (s.peek p))).record
          (.read (joinBytes (highByte p) (lowByte p + 1)) (s.peek (joinBytes (highByte p) (lowByte p + 1))))) := by
  simp [indirectPointer, busRead_plain, h]

/-! ### The stack -/

@[simp] theorem push_pc (v : Byte) (s : State) : (push v s).pc = s.pc := by simp [push]
@[simp] theorem push_a (v : Byte) (s : State) : (push v s).a = s.a := by simp [push]
@[simp] theorem push_x (v : Byte) (s : State) : (push v s).x = s.x := by simp [push]
@[simp] theorem push_y (v : Byte) (s : State) : (push v s).y = s.y := by simp [push]
@[simp] theorem push_flags (v : Byte) (s : State) : (push v s).flags = s.flags := by simp [push]
@[simp] theorem push_power (v : Byte) (s : State) : (push v s).power = s.power := by simp [push]
@[simp] theorem push_resetPending (v : Byte) (s : State) : (push v s).resetPending = s.resetPending := by simp [push]
@[simp] theorem push_cycles (v : Byte) (s : State) : (push v s).cycles = s.cycles := by simp [push]
@[simp] theorem push_devices (v : Byte) (s : State) : (push v s).devices = s.devices := by simp [push]
@[simp] theorem push_draws (v : Byte) (s : State) : (push v s).draws = s.draws := by simp [push]

@[simp] theorem pull_pc (s : State) : (pull s).2.pc = s.pc := by simp [pull]
@[simp] theorem pull_a (s : State) : (pull s).2.a = s.a := by simp [pull]
@[simp] theorem pull_x (s : State) : (pull s).2.x = s.x := by simp [pull]
@[simp] theorem pull_y (s : State) : (pull s).2.y = s.y := by simp [pull]
@[simp] theorem pull_flags (s : State) : (pull s).2.flags = s.flags := by simp [pull]
@[simp] theorem pull_power (s : State) : (pull s).2.power = s.power := by simp [pull]
@[simp] theorem pull_resetPending (s : State) : (pull s).2.resetPending = s.resetPending := by simp [pull]
@[simp] theorem pull_cycles (s : State) : (pull s).2.cycles = s.cycles := by simp [pull]
@[simp] theorem pull_mem (s : State) : (pull s).2.mem = s.mem := by simp [pull]
@[simp] theorem pull_devices (s : State) : (pull s).2.devices = s.devices := by simp [pull]
@[simp] theorem pull_draws (s : State) : (pull s).2.draws = s.draws := by simp [pull]

@[simp] theorem push_sp (v : Byte) (s : State) : (push v s).sp = s.sp - 1 := by simp [push]
@[simp] theorem pull_sp (s : State) : (pull s).2.sp = s.sp + 1 := by simp [pull]

@[simp] theorem push_history (v : Byte) (s : State) :
    (push v s).history = .write (stackAddr s.sp) v :: s.history := by simp [push]

@[simp] theorem pull_history (s : State) :
    (pull s).2.history = .read (stackAddr (s.sp + 1)) (pull s).1 :: s.history := by simp [pull]

theorem push_mem (v : Byte) (s : State) : (push v s).mem = (busWrite (stackAddr s.sp) v s).mem := rfl

theorem push_peek_other (v : Byte) (s : State) (b : Addr) (h : b ≠ stackAddr s.sp) : (push v s).peek b = s.peek b := by
  rw [State.peek_congr (push_mem v s), busWrite_peek_other _ _ _ _ h]

theorem push_wf (v : Byte) (s : State) (h : s.mem.wf = true) : (push v s).mem.wf = true := busWrite_wf _ _ _ h

@[simp] theorem pull_peek (s : State) (b : Addr) : (pull s).2.peek b = s.peek b := State.peek_congr (pull_mem s) b

theorem push_plain {s : State} (h : s.devices = []) (v : Byte) :
    push v s = ((s.poke (stackAddr s.sp) v).record (.write (stackAddr s.sp) v)).setSp (s.sp - 1) := by
  simp [push, busWrite_plain, h]

theorem pull_plain {s : State} (h : s.devices = []) :
    pull s = (s.peek (stackAddr (s.sp + 1)),
      (s.setSp (s.sp + 1)).record (.read (stackAddr (s.sp + 1)) (s.peek (stackAddr (s.sp + 1))))) := by
  simp [pull, busRead_plain, h, State.peek]

/-- Two stack slots are the same address only for the same stack pointer. -/
theorem stackAddr_inj {p q : Byte} : stackAddr p = stackAddr q ↔ p = q := by
  constructor
  · intro h
    simpa [stackAddr] using congrArg lowByte h
  · rintro rfl; rfl

/-! ### Fetch -/

@[simp] theorem fetchByte_sp (s : State) : (fetchByte s).2.sp = s.sp := by simp [fetchByte]
@[simp] theorem fetchByte_a (s : State) : (fetchByte s).2.a = s.a := by simp [fetchByte]
@[simp] theorem fetchByte_x (s : State) : (fetchByte s).2.x = s.x := by simp [fetchByte]
@[simp] theorem fetchByte_y (s : State) : (fetchByte s).2.y = s.y := by simp [fetchByte]
@[simp] theorem fetchByte_flags (s : State) : (fetchByte s).2.flags = s.flags := by simp [fetchByte]
@[simp] theorem fetchByte_power (s : State) : (fetchByte s).2.power = s.power := by simp [fetchByte]
@[simp] theorem fetchByte_resetPending (s : State) : (fetchByte s).2.resetPending = s.resetPending := by simp [fetchByte]
@[simp] theorem fetchByte_cycles (s : State) : (fetchByte s).2.cycles = s.cycles := by simp [fetchByte]
@[simp] theorem fetchByte_mem (s : State) : (fetchByte s).2.mem = s.mem := by simp [fetchByte]
@[simp] theorem fetchByte_devices (s : State) : (fetchByte s).2.devices = s.devices := by simp [fetchByte]
@[simp] theorem fetchByte_draws (s : State) : (fetchByte s).2.draws = s.draws := by simp [fetchByte]

@[simp] theorem fetchBytes_sp (n : Nat) (s : State) : (fetchBytes n s).2.sp = s.sp := by
  induction n generalizing s with
  | zero => rfl
  | succ n ih => simp [fetchBytes, ih]
@[simp] theorem fetchBytes_a (n : Nat) (s : State) : (fetchBytes n s).2.a = s.a := by
  induction n generalizing s with
  | zero => rfl
  | succ n ih => simp [fetchBytes, ih]
@[simp] theorem fetchBytes_x (n : Nat) (s : State) : (fetchBytes n s).2.x = s.x := by
  induction n generalizing s with
  | zero => rfl
  | succ n ih => simp [fetchBytes, ih]
@[simp] theorem fetchBytes_y (n : Nat) (s : State) : (fetchBytes n s).2.y = s.y := by
  induction n generalizing s with
  | zero => rfl
  | succ n ih => simp [fetchBytes, ih]
@[simp] theorem fetchBytes_flags (n : Nat) (s : State) : (fetchBytes n s).2.flags = s.flags := by
  induction n generalizing s with
  | zero => rfl
  | succ n ih => simp [fetchBytes, ih]
@[simp] theorem fetchBytes_power (n : Nat) (s : State) : (fetchBytes n s).2.power = s.power := by
  induction n generalizing s with
  | zero => rfl
  | succ n ih => simp [fetchBytes, ih]
@[simp] theorem fetchBytes_resetPending (n : Nat) (s : State) : (fetchBytes n s).2.resetPending = s.resetPending := by
  induction n generalizing s with
  | zero => rfl
  | succ n ih => simp [fetchBytes, ih]
@[simp] theorem fetchBytes_cycles (n : Nat) (s : State) : (fetchBytes n s).2.cycles = s.cycles := by
  induction n generalizing s with
  | zero => rfl
  | succ n ih => simp [fetchBytes, ih]
@[simp] theorem fetchBytes_mem (n : Nat) (s : State) : (fetchBytes n s).2.mem = s.mem := by
  induction n generalizing s with
  | zero => rfl
  | succ n ih => simp [fetchBytes, ih]
@[simp] theorem fetchBytes_devices (n : Nat) (s : State) : (fetchBytes n s).2.devices = s.devices := by
  induction n generalizing s with
  | zero => rfl
  | succ n ih => simp [fetchBytes, ih]
@[simp] theorem fetchBytes_draws (n : Nat) (s : State) : (fetchBytes n s).2.draws = s.draws := by
  induction n generalizing s with
  | zero => rfl
  | succ n ih => simp [fetchBytes, ih]

@[simp] theorem fetchInstr_sp (s : State) : (fetchInstr s).state.sp = s.sp := by simp [fetchInstr]
@[simp] theorem fetchInstr_a (s : State) : (fetchInstr s).state.a = s.a := by simp [fetchInstr]
@[simp] theorem fetchInstr_x (s : State) : (fetchInstr s).state.x = s.x := by simp [fetchInstr]
@[simp] theorem fetchInstr_y (s : State) : (fetchInstr s).state.y = s.y := by simp [fetchInstr]
@[simp] theorem fetchInstr_flags (s : State) : (fetchInstr s).state.flags = s.flags := by simp [fetchInstr]
@[simp] theorem fetchInstr_power (s : State) : (fetchInstr s).state.power = s.power := by simp [fetchInstr]
@[simp] theorem fetchInstr_resetPending (s : State) : (fetchInstr s).state.resetPending = s.resetPending := by simp [fetchInstr]
@[simp] theorem fetchInstr_cycles (s : State) : (fetchInstr s).state.cycles = s.cycles := by simp [fetchInstr]
@[simp] theorem fetchInstr_mem (s : State) : (fetchInstr s).state.mem = s.mem := by simp [fetchInstr]
@[simp] theorem fetchInstr_devices (s : State) : (fetchInstr s).state.devices = s.devices := by simp [fetchInstr]
@[simp] theorem fetchInstr_draws (s : State) : (fetchInstr s).state.draws = s.draws := by simp [fetchInstr]

@[simp] theorem fetchByte_pc (s : State) : (fetchByte s).2.pc = s.pc + 1 := by simp [fetchByte]

@[simp] theorem fetchBytes_pc (n : Nat) (s : State) : (fetchBytes n s).2.pc = s.pc + BitVec.ofNat 16 n := by
  induction n generalizing s with
  | zero => simp [fetchBytes]
  | succ n ih =>
    simp only [fetchBytes, ih, fetchByte_pc]
    rw [BitVec.ofNat_add, BitVec.add_assoc, BitVec.add_comm 1]
    rfl

theorem fetchByte_plain {s : State} (h : s.devices = []) :
    fetchByte s = (s.peek s.pc, (s.record (.read s.pc (s.peek s.pc))).setPc (s.pc + 1)) := by
  simp [fetchByte, busRead_plain, h]

/-! ### Interrupts and reset -/

@[simp] theorem service_a (v : Addr) (b : Bool) (s : State) : (service v b s).a = s.a := by simp [service, State.setI]
@[simp] theorem service_x (v : Addr) (b : Bool) (s : State) : (service v b s).x = s.x := by simp [service, State.setI]
@[simp] theorem service_y (v : Addr) (b : Bool) (s : State) : (service v b s).y = s.y := by simp [service, State.setI]
@[simp] theorem service_power (v : Addr) (b : Bool) (s : State) : (service v b s).power = s.power := by simp [service, State.setI]
@[simp] theorem service_resetPending (v : Addr) (b : Bool) (s : State) : (service v b s).resetPending = s.resetPending := by simp [service, State.setI]
@[simp] theorem service_cycles (v : Addr) (b : Bool) (s : State) : (service v b s).cycles = s.cycles := by simp [service, State.setI]
@[simp] theorem service_devices (v : Addr) (b : Bool) (s : State) : (service v b s).devices = s.devices := by simp [service, State.setI]
@[simp] theorem service_draws (v : Addr) (b : Bool) (s : State) : (service v b s).draws = s.draws := by simp [service, State.setI]

@[simp] theorem returnFromService_a (s : State) : (returnFromService s).a = s.a := by simp [returnFromService]
@[simp] theorem returnFromService_x (s : State) : (returnFromService s).x = s.x := by simp [returnFromService]
@[simp] theorem returnFromService_y (s : State) : (returnFromService s).y = s.y := by simp [returnFromService]
@[simp] theorem returnFromService_power (s : State) : (returnFromService s).power = s.power := by simp [returnFromService]
@[simp] theorem returnFromService_resetPending (s : State) : (returnFromService s).resetPending = s.resetPending := by simp [returnFromService]
@[simp] theorem returnFromService_cycles (s : State) : (returnFromService s).cycles = s.cycles := by simp [returnFromService]
@[simp] theorem returnFromService_mem (s : State) : (returnFromService s).mem = s.mem := by simp [returnFromService]
@[simp] theorem returnFromService_devices (s : State) : (returnFromService s).devices = s.devices := by simp [returnFromService]
@[simp] theorem returnFromService_draws (s : State) : (returnFromService s).draws = s.draws := by simp [returnFromService]

@[simp] theorem resetSequence_a (s : State) : (resetSequence s).a = s.a := by simp [resetSequence, State.setI]
@[simp] theorem resetSequence_x (s : State) : (resetSequence s).x = s.x := by simp [resetSequence, State.setI]
@[simp] theorem resetSequence_y (s : State) : (resetSequence s).y = s.y := by simp [resetSequence, State.setI]
@[simp] theorem resetSequence_power (s : State) : (resetSequence s).power = s.power := by simp [resetSequence, State.setI]
@[simp] theorem resetSequence_cycles (s : State) : (resetSequence s).cycles = s.cycles := by simp [resetSequence, State.setI]
@[simp] theorem resetSequence_mem (s : State) : (resetSequence s).mem = s.mem := by simp [resetSequence, State.setI]
@[simp] theorem resetSequence_devices (s : State) : (resetSequence s).devices = s.devices := by simp [resetSequence, State.setI]
@[simp] theorem resetSequence_draws (s : State) : (resetSequence s).draws = s.draws := by simp [resetSequence, State.setI]

@[simp] theorem nmiService_a (s : State) : (nmiService s).a = s.a := by simp [nmiService]
@[simp] theorem nmiService_x (s : State) : (nmiService s).x = s.x := by simp [nmiService]
@[simp] theorem nmiService_y (s : State) : (nmiService s).y = s.y := by simp [nmiService]
@[simp] theorem nmiService_power (s : State) : (nmiService s).power = s.power := by simp [nmiService]
@[simp] theorem nmiService_resetPending (s : State) : (nmiService s).resetPending = s.resetPending := by simp [nmiService]
@[simp] theorem nmiService_cycles (s : State) : (nmiService s).cycles = s.cycles := by simp [nmiService]
@[simp] theorem nmiService_devices (s : State) : (nmiService s).devices = s.devices := by simp [nmiService]
@[simp] theorem nmiService_draws (s : State) : (nmiService s).draws = s.draws := by simp [nmiService]

@[simp] theorem irqService_a (s : State) : (irqService s).a = s.a := by simp [irqService]
@[simp] theorem irqService_x (s : State) : (irqService s).x = s.x := by simp [irqService]
@[simp] theorem irqService_y (s : State) : (irqService s).y = s.y := by simp [irqService]
@[simp] theorem irqService_power (s : State) : (irqService s).power = s.power := by simp [irqService]
@[simp] theorem irqService_resetPending (s : State) : (irqService s).resetPending = s.resetPending := by simp [irqService]
@[simp] theorem irqService_cycles (s : State) : (irqService s).cycles = s.cycles := by simp [irqService]
@[simp] theorem irqService_devices (s : State) : (irqService s).devices = s.devices := by simp [irqService]
@[simp] theorem irqService_draws (s : State) : (irqService s).draws = s.draws := by simp [irqService]

@[simp] theorem service_flags (v : Addr) (b : Bool) (s : State) :
    (service v b s).flags = { s.flags with i := true } := by simp [service]

@[simp] theorem service_sp (v : Addr) (b : Bool) (s : State) : (service v b s).sp = s.sp - 1 - 1 - 1 := by
  simp [service]

@[simp] theorem resetSequence_flags (s : State) : (resetSequence s).flags = { s.flags with i := true } := by
  simp [resetSequence, State.setI]

@[simp] theorem resetSequence_sp (s : State) : (resetSequence s).sp = 0xFD := by simp [resetSequence, State.setI]

@[simp] theorem resetSequence_resetPending (s : State) : (resetSequence s).resetPending = false := by
  simp [resetSequence, State.setI]

theorem service_wf (v : Addr) (b : Bool) (s : State) (h : s.mem.wf = true) : (service v b s).mem.wf = true := by
  simp only [service, State.setPc_mem, busRead16_mem, State.setI_mem]
  exact push_wf _ _ (push_wf _ _ (push_wf _ _ h))

/-! ### The end of a step -/

/-- All that `finish` can answer a next state with. -/
theorem finish_next {c : Nat} {s t : State} :
    finish c s = .next t ↔
      s.refused = none ∧ Config.fits (s.cycles + c) = true ∧ t = { s with cycles := s.cycles + c } := by
  unfold finish
  cases s.refused with
  | some r => simp
  | none =>
    by_cases h : Config.fits (s.cycles + c) = true
    · simp [h, eq_comm]
    · simp [h]

/-- A count below one that fits fits. -/
theorem Config.fits_mono {m n : Nat} (h : m ≤ n) (hn : Config.fits n = true) : Config.fits m = true := by
  simp only [Config.fits, Bool.or_eq_true, decide_eq_true_eq] at hn ⊢
  omega

/-- `finish` completes when no device has made a forbidden call and the counter has room. -/
theorem finish_of_fits {c : Nat} {s : State} (hr : s.refused = none) (hf : Config.fits (s.cycles + c) = true) :
    finish c s = .next { s with cycles := s.cycles + c } :=
  finish_next.2 ⟨hr, hf, rfl⟩

/-- A meaning that answers a next state was given a well-formed term. -/
theorem formed_next {i : Instr} {k : Result} {t : State} :
    formed i k = .next t ↔ i.wellFormed = true ∧ k = .next t := by
  unfold formed; split <;> simp_all

theorem formed_of_wellFormed {i : Instr} (h : i.wellFormed = true) (k : Result) : formed i k = k := by
  simp [formed, h]

end Sys2Proof.Machine
end

