-- ==== Sys2Proof/Laws/Operands.lean ====
section
/-!
SUPPORT. What the resolver and the three operand classes leave alone in every state, and what they are on plain RAM.
-/

namespace Sys2Proof.Machine

open Sys2Proof

@[simp] theorem indexed_pc (b : Addr) (i : Byte) (s : State) : (indexed b i s).state.pc = s.pc := rfl
@[simp] theorem indexed_sp (b : Addr) (i : Byte) (s : State) : (indexed b i s).state.sp = s.sp := rfl
@[simp] theorem indexed_a (b : Addr) (i : Byte) (s : State) : (indexed b i s).state.a = s.a := rfl
@[simp] theorem indexed_x (b : Addr) (i : Byte) (s : State) : (indexed b i s).state.x = s.x := rfl
@[simp] theorem indexed_y (b : Addr) (i : Byte) (s : State) : (indexed b i s).state.y = s.y := rfl
@[simp] theorem indexed_flags (b : Addr) (i : Byte) (s : State) : (indexed b i s).state.flags = s.flags := rfl
@[simp] theorem indexed_power (b : Addr) (i : Byte) (s : State) : (indexed b i s).state.power = s.power := rfl
@[simp] theorem indexed_resetPending (b : Addr) (i : Byte) (s : State) : (indexed b i s).state.resetPending = s.resetPending := rfl
@[simp] theorem indexed_cycles (b : Addr) (i : Byte) (s : State) : (indexed b i s).state.cycles = s.cycles := rfl
@[simp] theorem indexed_mem (b : Addr) (i : Byte) (s : State) : (indexed b i s).state.mem = s.mem := rfl
@[simp] theorem indexed_devices (b : Addr) (i : Byte) (s : State) : (indexed b i s).state.devices = s.devices := rfl
@[simp] theorem indexed_draws (b : Addr) (i : Byte) (s : State) : (indexed b i s).state.draws = s.draws := rfl

@[simp] theorem resolve_pc (o : Operand) (s : State) : (resolve o s).state.pc = s.pc := by cases o <;> simp [resolve]
@[simp] theorem resolve_sp (o : Operand) (s : State) : (resolve o s).state.sp = s.sp := by cases o <;> simp [resolve]
@[simp] theorem resolve_a (o : Operand) (s : State) : (resolve o s).state.a = s.a := by cases o <;> simp [resolve]
@[simp] theorem resolve_x (o : Operand) (s : State) : (resolve o s).state.x = s.x := by cases o <;> simp [resolve]
@[simp] theorem resolve_y (o : Operand) (s : State) : (resolve o s).state.y = s.y := by cases o <;> simp [resolve]
@[simp] theorem resolve_flags (o : Operand) (s : State) : (resolve o s).state.flags = s.flags := by cases o <;> simp [resolve]
@[simp] theorem resolve_power (o : Operand) (s : State) : (resolve o s).state.power = s.power := by cases o <;> simp [resolve]
@[simp] theorem resolve_resetPending (o : Operand) (s : State) : (resolve o s).state.resetPending = s.resetPending := by cases o <;> simp [resolve]
@[simp] theorem resolve_cycles (o : Operand) (s : State) : (resolve o s).state.cycles = s.cycles := by cases o <;> simp [resolve]
@[simp] theorem resolve_mem (o : Operand) (s : State) : (resolve o s).state.mem = s.mem := by cases o <;> simp [resolve]
@[simp] theorem resolve_devices (o : Operand) (s : State) : (resolve o s).state.devices = s.devices := by cases o <;> simp [resolve]
@[simp] theorem resolve_draws (o : Operand) (s : State) : (resolve o s).state.draws = s.draws := by cases o <;> simp [resolve]

@[simp] theorem loadLoc_pc (l : Loc) (s : State) : (loadLoc l s).2.pc = s.pc := by cases l <;> simp [loadLoc]
@[simp] theorem loadLoc_sp (l : Loc) (s : State) : (loadLoc l s).2.sp = s.sp := by cases l <;> simp [loadLoc]
@[simp] theorem loadLoc_a (l : Loc) (s : State) : (loadLoc l s).2.a = s.a := by cases l <;> simp [loadLoc]
@[simp] theorem loadLoc_x (l : Loc) (s : State) : (loadLoc l s).2.x = s.x := by cases l <;> simp [loadLoc]
@[simp] theorem loadLoc_y (l : Loc) (s : State) : (loadLoc l s).2.y = s.y := by cases l <;> simp [loadLoc]
@[simp] theorem loadLoc_flags (l : Loc) (s : State) : (loadLoc l s).2.flags = s.flags := by cases l <;> simp [loadLoc]
@[simp] theorem loadLoc_power (l : Loc) (s : State) : (loadLoc l s).2.power = s.power := by cases l <;> simp [loadLoc]
@[simp] theorem loadLoc_resetPending (l : Loc) (s : State) : (loadLoc l s).2.resetPending = s.resetPending := by cases l <;> simp [loadLoc]
@[simp] theorem loadLoc_cycles (l : Loc) (s : State) : (loadLoc l s).2.cycles = s.cycles := by cases l <;> simp [loadLoc]
@[simp] theorem loadLoc_mem (l : Loc) (s : State) : (loadLoc l s).2.mem = s.mem := by cases l <;> simp [loadLoc]
@[simp] theorem loadLoc_devices (l : Loc) (s : State) : (loadLoc l s).2.devices = s.devices := by cases l <;> simp [loadLoc]
@[simp] theorem loadLoc_draws (l : Loc) (s : State) : (loadLoc l s).2.draws = s.draws := by cases l <;> simp [loadLoc]

@[simp] theorem storeLoc_pc (l : Loc) (v : Byte) (s : State) : (storeLoc l v s).pc = s.pc := by cases l <;> simp [storeLoc]
@[simp] theorem storeLoc_sp (l : Loc) (v : Byte) (s : State) : (storeLoc l v s).sp = s.sp := by cases l <;> simp [storeLoc]
@[simp] theorem storeLoc_x (l : Loc) (v : Byte) (s : State) : (storeLoc l v s).x = s.x := by cases l <;> simp [storeLoc]
@[simp] theorem storeLoc_y (l : Loc) (v : Byte) (s : State) : (storeLoc l v s).y = s.y := by cases l <;> simp [storeLoc]
@[simp] theorem storeLoc_flags (l : Loc) (v : Byte) (s : State) : (storeLoc l v s).flags = s.flags := by cases l <;> simp [storeLoc]
@[simp] theorem storeLoc_power (l : Loc) (v : Byte) (s : State) : (storeLoc l v s).power = s.power := by cases l <;> simp [storeLoc]
@[simp] theorem storeLoc_resetPending (l : Loc) (v : Byte) (s : State) : (storeLoc l v s).resetPending = s.resetPending := by cases l <;> simp [storeLoc]
@[simp] theorem storeLoc_cycles (l : Loc) (v : Byte) (s : State) : (storeLoc l v s).cycles = s.cycles := by cases l <;> simp [storeLoc]
@[simp] theorem storeLoc_devices (l : Loc) (v : Byte) (s : State) : (storeLoc l v s).devices = s.devices := by cases l <;> simp [storeLoc]
@[simp] theorem storeLoc_draws (l : Loc) (v : Byte) (s : State) : (storeLoc l v s).draws = s.draws := by cases l <;> simp [storeLoc]

@[simp] theorem jumpTo_sp (l : Loc) (s : State) : (jumpTo l s).sp = s.sp := by cases l <;> simp [jumpTo]
@[simp] theorem jumpTo_a (l : Loc) (s : State) : (jumpTo l s).a = s.a := by cases l <;> simp [jumpTo]
@[simp] theorem jumpTo_x (l : Loc) (s : State) : (jumpTo l s).x = s.x := by cases l <;> simp [jumpTo]
@[simp] theorem jumpTo_y (l : Loc) (s : State) : (jumpTo l s).y = s.y := by cases l <;> simp [jumpTo]
@[simp] theorem jumpTo_flags (l : Loc) (s : State) : (jumpTo l s).flags = s.flags := by cases l <;> simp [jumpTo]
@[simp] theorem jumpTo_power (l : Loc) (s : State) : (jumpTo l s).power = s.power := by cases l <;> simp [jumpTo]
@[simp] theorem jumpTo_resetPending (l : Loc) (s : State) : (jumpTo l s).resetPending = s.resetPending := by cases l <;> simp [jumpTo]
@[simp] theorem jumpTo_cycles (l : Loc) (s : State) : (jumpTo l s).cycles = s.cycles := by cases l <;> simp [jumpTo]
@[simp] theorem jumpTo_mem (l : Loc) (s : State) : (jumpTo l s).mem = s.mem := by cases l <;> simp [jumpTo]
@[simp] theorem jumpTo_devices (l : Loc) (s : State) : (jumpTo l s).devices = s.devices := by cases l <;> simp [jumpTo]
@[simp] theorem jumpTo_draws (l : Loc) (s : State) : (jumpTo l s).draws = s.draws := by cases l <;> simp [jumpTo]

/-- A store to a place that is no memory keeps memory, and one to memory keeps A. -/
theorem storeLoc_a_of_mem (ea : Addr) (v : Byte) (s : State) : (storeLoc (.mem ea) v s).a = s.a := by simp [storeLoc]

theorem storeLoc_acc_mem (v : Byte) (s : State) : (storeLoc .acc v s).mem = s.mem := by simp [storeLoc]

/-- A store keeps every byte of memory but the one it names. -/
theorem storeLoc_peek_other (l : Loc) (v : Byte) (s : State) (b : Addr) (h : l ≠ .mem b) :
    (storeLoc l v s).peek b = s.peek b := by
  cases l with
  | mem ea => exact busWrite_peek_other _ _ _ _ (fun e => h (by rw [e]))
  | none => rfl
  | acc => rfl
  | value _ => rfl
  | target _ => rfl

theorem storeLoc_wf (l : Loc) (v : Byte) (s : State) (h : s.mem.wf = true) : (storeLoc l v s).mem.wf = true := by
  cases l with
  | mem ea => exact busWrite_wf _ _ _ h
  | none => exact h
  | acc => exact h
  | value _ => exact h
  | target _ => exact h

/-- On plain RAM an operand that names an address resolves to it, after its pointer reads (R174 to R182). -/
theorem resolve_plain {o : Operand} {s : State} {ea : Addr} (h : s.devices = []) (he : effectiveAddress o s = some ea) :
    resolve o s =
      { loc := .mem ea, cross := pageCross o s, state := { s with history := pointerReads o s ++ s.history } } := by
  cases o <;> simp only [effectiveAddress, Option.some.injEq, reduceCtorEq] at he <;> subst he
  case ind a => simp only [resolve, indirectPointer_plain h]; rfl
  case izx z => simp only [resolve, zeroPagePointer_plain h]; rfl
  case izy z => simp only [resolve, zeroPagePointer_plain h]; rfl
  all_goals rfl

/-- On plain RAM a well-formed operand of a reading instruction yields its operand byte, and its reads are recorded. -/
theorem loadLoc_plain {o : Operand} {s : State} (h : s.devices = [])
    (ho : (effectiveAddress o s).isSome ∨ o.mode = .imm ∨ o.mode = .acc) :
    loadLoc (resolve o s).loc (resolve o s).state =
      (operandValue o s, { s with history := operandReads o s ++ s.history }) ∧
    (resolve o s).cross = pageCross o s := by
  cases he : effectiveAddress o s with
  | some ea =>
    have hr := resolve_plain h he
    have hv : operandValue o s = s.peek ea := by
      cases o <;> simp_all [operandValue, effectiveAddress]
    have hd : (resolve o s).state.devices = [] := by simp [h]
    rw [hv, operandReads, he]
    refine ⟨?_, by rw [hr]⟩
    rw [show (resolve o s).loc = .mem ea by rw [hr], loadLoc, busRead_plain hd, hr]
    rfl
  | none =>
    cases o <;> simp [effectiveAddress, Operand.mode] at he ho <;> exact ⟨rfl, rfl⟩

end Sys2Proof.Machine
end

