-- ==== Sys2Proof/Laws/PerInstr.lean ====
section
/-!
SUPPORT. Facts of every instruction as syntax, one lemma per constructor.
-/

namespace Sys2Proof.Laws

/-- A well-formed instruction has an encoding: its opcode byte and the operand bytes read before it executes, which are
within its length in memory, 1 to 3 bytes (30_encoding.md R101, R107). -/
def EncodedLength.Statement (i : Instr) : Prop :=
  i.wellFormed = true →
    (encode i).length = 1 + i.operandBytes.length ∧ 1 + i.operandBytes.length ≤ i.length ∧ i.length ≤ 3

/-- The lengths of an instruction whose bytes are all read before it executes. -/
theorem encodedLength_of {i : Instr} (ho : i.opcode.isSome = true) (hl : i.length = 1 + i.operandBytes.length)
    (hb : i.operandBytes.length ≤ 2) :
    (encode i).length = 1 + i.operandBytes.length ∧ 1 + i.operandBytes.length ≤ i.length ∧ i.length ≤ 3 := by
  obtain ⟨op, ho⟩ := Option.isSome_iff_exists.1 ho
  simp only [encode, ho, List.length_cons]
  omega

theorem operandBytes_length_le (o : Operand) : o.bytes.length ≤ 2 := by
  cases o <;> simp [Operand.bytes]

/-- A mode that a mnemonic has, has an opcode. -/
theorem opcode_isSome_of_mode {modes : List Mode} {f : Mode → Option Byte}
    (h : modes.all (fun m => (f m).isSome) = true) {m : Mode} (hm : modes.contains m = true) : (f m).isSome = true :=
  List.all_eq_true.1 h m (by simpa using hm)

theorem EncodedLength.adc (o : Operand) : EncodedLength.Statement (.adc o) := fun h =>
  encodedLength_of (opcode_isSome_of_mode (f := opcodesAdc) (by decide) h) rfl (operandBytes_length_le o)

theorem EncodedLength.and (o : Operand) : EncodedLength.Statement (.and o) := fun h =>
  encodedLength_of (opcode_isSome_of_mode (f := opcodesAnd) (by decide) h) rfl (operandBytes_length_le o)

theorem EncodedLength.asl (o : Operand) : EncodedLength.Statement (.asl o) := fun h =>
  encodedLength_of (opcode_isSome_of_mode (f := opcodesAsl) (by decide) h) rfl (operandBytes_length_le o)

theorem EncodedLength.bcc (off : Byte) : EncodedLength.Statement (.bcc off) := fun _ =>
  encodedLength_of rfl rfl (by simp [Instr.operandBytes])

theorem EncodedLength.bcs (off : Byte) : EncodedLength.Statement (.bcs off) := fun _ =>
  encodedLength_of rfl rfl (by simp [Instr.operandBytes])

theorem EncodedLength.beq (off : Byte) : EncodedLength.Statement (.beq off) := fun _ =>
  encodedLength_of rfl rfl (by simp [Instr.operandBytes])

theorem EncodedLength.bit (o : Operand) : EncodedLength.Statement (.bit o) := fun h =>
  encodedLength_of (opcode_isSome_of_mode (f := opcodesBit) (by decide) h) rfl (operandBytes_length_le o)

theorem EncodedLength.bmi (off : Byte) : EncodedLength.Statement (.bmi off) := fun _ =>
  encodedLength_of rfl rfl (by simp [Instr.operandBytes])

theorem EncodedLength.bne (off : Byte) : EncodedLength.Statement (.bne off) := fun _ =>
  encodedLength_of rfl rfl (by simp [Instr.operandBytes])

theorem EncodedLength.bpl (off : Byte) : EncodedLength.Statement (.bpl off) := fun _ =>
  encodedLength_of rfl rfl (by simp [Instr.operandBytes])

theorem EncodedLength.brk : EncodedLength.Statement .brk := fun _ => ⟨rfl, by decide, by decide⟩

theorem EncodedLength.bvc (off : Byte) : EncodedLength.Statement (.bvc off) := fun _ =>
  encodedLength_of rfl rfl (by simp [Instr.operandBytes])

theorem EncodedLength.bvs (off : Byte) : EncodedLength.Statement (.bvs off) := fun _ =>
  encodedLength_of rfl rfl (by simp [Instr.operandBytes])

theorem EncodedLength.clc : EncodedLength.Statement .clc := fun _ =>
  encodedLength_of rfl rfl (by simp [Instr.operandBytes])

theorem EncodedLength.cld : EncodedLength.Statement .cld := fun _ =>
  encodedLength_of rfl rfl (by simp [Instr.operandBytes])

theorem EncodedLength.cli : EncodedLength.Statement .cli := fun _ =>
  encodedLength_of rfl rfl (by simp [Instr.operandBytes])

theorem EncodedLength.clv : EncodedLength.Statement .clv := fun _ =>
  encodedLength_of rfl rfl (by simp [Instr.operandBytes])

theorem EncodedLength.cmp (o : Operand) : EncodedLength.Statement (.cmp o) := fun h =>
  encodedLength_of (opcode_isSome_of_mode (f := opcodesCmp) (by decide) h) rfl (operandBytes_length_le o)

theorem EncodedLength.cpx (o : Operand) : EncodedLength.Statement (.cpx o) := fun h =>
  encodedLength_of (opcode_isSome_of_mode (f := opcodesCpx) (by decide) h) rfl (operandBytes_length_le o)

theorem EncodedLength.cpy (o : Operand) : EncodedLength.Statement (.cpy o) := fun h =>
  encodedLength_of (opcode_isSome_of_mode (f := opcodesCpy) (by decide) h) rfl (operandBytes_length_le o)

theorem EncodedLength.dec (o : Operand) : EncodedLength.Statement (.dec o) := fun h =>
  encodedLength_of (opcode_isSome_of_mode (f := opcodesDec) (by decide) h) rfl (operandBytes_length_le o)

theorem EncodedLength.dex : EncodedLength.Statement .dex := fun _ =>
  encodedLength_of rfl rfl (by simp [Instr.operandBytes])

theorem EncodedLength.dey : EncodedLength.Statement .dey := fun _ =>
  encodedLength_of rfl rfl (by simp [Instr.operandBytes])

theorem EncodedLength.eor (o : Operand) : EncodedLength.Statement (.eor o) := fun h =>
  encodedLength_of (opcode_isSome_of_mode (f := opcodesEor) (by decide) h) rfl (operandBytes_length_le o)

theorem EncodedLength.inc (o : Operand) : EncodedLength.Statement (.inc o) := fun h =>
  encodedLength_of (opcode_isSome_of_mode (f := opcodesInc) (by decide) h) rfl (operandBytes_length_le o)

theorem EncodedLength.inx : EncodedLength.Statement .inx := fun _ =>
  encodedLength_of rfl rfl (by simp [Instr.operandBytes])

theorem EncodedLength.iny : EncodedLength.Statement .iny := fun _ =>
  encodedLength_of rfl rfl (by simp [Instr.operandBytes])

theorem EncodedLength.jmp (o : Operand) : EncodedLength.Statement (.jmp o) := fun h =>
  encodedLength_of (opcode_isSome_of_mode (f := opcodesJmp) (by decide) h) rfl (operandBytes_length_le o)

theorem EncodedLength.jsr (lo : Byte) : EncodedLength.Statement (.jsr lo) := fun _ =>
  ⟨rfl, by simp [Instr.length, Instr.operandBytes], by simp [Instr.length]⟩

theorem EncodedLength.lda (o : Operand) : EncodedLength.Statement (.lda o) := fun h =>
  encodedLength_of (opcode_isSome_of_mode (f := opcodesLda) (by decide) h) rfl (operandBytes_length_le o)

theorem EncodedLength.ldx (o : Operand) : EncodedLength.Statement (.ldx o) := fun h =>
  encodedLength_of (opcode_isSome_of_mode (f := opcodesLdx) (by decide) h) rfl (operandBytes_length_le o)

theorem EncodedLength.ldy (o : Operand) : EncodedLength.Statement (.ldy o) := fun h =>
  encodedLength_of (opcode_isSome_of_mode (f := opcodesLdy) (by decide) h) rfl (operandBytes_length_le o)

theorem EncodedLength.lsr (o : Operand) : EncodedLength.Statement (.lsr o) := fun h =>
  encodedLength_of (opcode_isSome_of_mode (f := opcodesLsr) (by decide) h) rfl (operandBytes_length_le o)

theorem EncodedLength.nop : EncodedLength.Statement .nop := fun _ =>
  encodedLength_of rfl rfl (by simp [Instr.operandBytes])

theorem EncodedLength.ora (o : Operand) : EncodedLength.Statement (.ora o) := fun h =>
  encodedLength_of (opcode_isSome_of_mode (f := opcodesOra) (by decide) h) rfl (operandBytes_length_le o)

theorem EncodedLength.pha : EncodedLength.Statement .pha := fun _ =>
  encodedLength_of rfl rfl (by simp [Instr.operandBytes])

theorem EncodedLength.php : EncodedLength.Statement .php := fun _ =>
  encodedLength_of rfl rfl (by simp [Instr.operandBytes])

theorem EncodedLength.pla : EncodedLength.Statement .pla := fun _ =>
  encodedLength_of rfl rfl (by simp [Instr.operandBytes])

theorem EncodedLength.plp : EncodedLength.Statement .plp := fun _ =>
  encodedLength_of rfl rfl (by simp [Instr.operandBytes])

theorem EncodedLength.rol (o : Operand) : EncodedLength.Statement (.rol o) := fun h =>
  encodedLength_of (opcode_isSome_of_mode (f := opcodesRol) (by decide) h) rfl (operandBytes_length_le o)

theorem EncodedLength.ror (o : Operand) : EncodedLength.Statement (.ror o) := fun h =>
  encodedLength_of (opcode_isSome_of_mode (f := opcodesRor) (by decide) h) rfl (operandBytes_length_le o)

theorem EncodedLength.rti : EncodedLength.Statement .rti := fun _ =>
  encodedLength_of rfl rfl (by simp [Instr.operandBytes])

theorem EncodedLength.rts : EncodedLength.Statement .rts := fun _ =>
  encodedLength_of rfl rfl (by simp [Instr.operandBytes])

theorem EncodedLength.sbc (o : Operand) : EncodedLength.Statement (.sbc o) := fun h =>
  encodedLength_of (opcode_isSome_of_mode (f := opcodesSbc) (by decide) h) rfl (operandBytes_length_le o)

theorem EncodedLength.sec : EncodedLength.Statement .sec := fun _ =>
  encodedLength_of rfl rfl (by simp [Instr.operandBytes])

theorem EncodedLength.sed : EncodedLength.Statement .sed := fun _ =>
  encodedLength_of rfl rfl (by simp [Instr.operandBytes])

theorem EncodedLength.sei : EncodedLength.Statement .sei := fun _ =>
  encodedLength_of rfl rfl (by simp [Instr.operandBytes])

theorem EncodedLength.sta (o : Operand) : EncodedLength.Statement (.sta o) := fun h =>
  encodedLength_of (opcode_isSome_of_mode (f := opcodesSta) (by decide) h) rfl (operandBytes_length_le o)

theorem EncodedLength.stx (o : Operand) : EncodedLength.Statement (.stx o) := fun h =>
  encodedLength_of (opcode_isSome_of_mode (f := opcodesStx) (by decide) h) rfl (operandBytes_length_le o)

theorem EncodedLength.sty (o : Operand) : EncodedLength.Statement (.sty o) := fun h =>
  encodedLength_of (opcode_isSome_of_mode (f := opcodesSty) (by decide) h) rfl (operandBytes_length_le o)

theorem EncodedLength.tax : EncodedLength.Statement .tax := fun _ =>
  encodedLength_of rfl rfl (by simp [Instr.operandBytes])

theorem EncodedLength.tay : EncodedLength.Statement .tay := fun _ =>
  encodedLength_of rfl rfl (by simp [Instr.operandBytes])

theorem EncodedLength.tsx : EncodedLength.Statement .tsx := fun _ =>
  encodedLength_of rfl rfl (by simp [Instr.operandBytes])

theorem EncodedLength.txa : EncodedLength.Statement .txa := fun _ =>
  encodedLength_of rfl rfl (by simp [Instr.operandBytes])

theorem EncodedLength.txs : EncodedLength.Statement .txs := fun _ =>
  encodedLength_of rfl rfl (by simp [Instr.operandBytes])

theorem EncodedLength.tya : EncodedLength.Statement .tya := fun _ =>
  encodedLength_of rfl rfl (by simp [Instr.operandBytes])

theorem EncodedLength.undoc (op : Byte) : EncodedLength.Statement (.undoc op) := fun h =>
  encodedLength_of (by
    show (if undocumentedOpcodes.contains op then some op else none).isSome = true
    rw [show undocumentedOpcodes.contains op = true from h]; rfl) rfl (by simp [Instr.operandBytes])


end Sys2Proof.Laws
end

