-- ==== Sys2Proof/Laws/Steps.lean ====
section
/-!
SUPPORT. What a step can do, said once for every adapter: the relation `Grown`, which every operation keeps, and what an
instruction that answers a next state has done.
-/

namespace Sys2Proof.Machine

open Sys2Proof

/-- What any part of a step leaves alone, its cost not yet counted, when it makes at most `n` accesses: a device may
change the NMI latch, the IRQ line, the mark and its own answers, and nothing else outside the registers and memory. -/
structure Grown (n : Nat) (s t : State) : Prop where
  cycles : t.cycles = s.cycles
  power : t.power = s.power
  resetPending : t.resetPending = s.resetPending
  devices : t.devices = s.devices
  draws : t.draws = s.draws
  wf : s.mem.wf = true → t.mem.wf = true
  plain : s.devices = [] → t.nmiPending = s.nmiPending ∧ t.irqLine = s.irqLine ∧ t.answers = s.answers
  refused : t.refused = none → s.refused = none
  history : ∃ new : List Access, t.history = new ++ s.history ∧ new.length ≤ n

theorem Grown.refl (s : State) : Grown 0 s s :=
  ⟨rfl, rfl, rfl, rfl, rfl, id, fun _ => ⟨rfl, rfl, rfl⟩, id, [], rfl, by simp⟩

theorem Grown.trans {m n : Nat} {s t u : State} (h : Grown m s t) (k : Grown n t u) : Grown (m + n) s u := by
  obtain ⟨a, ha, la⟩ := h.history
  obtain ⟨b, hb, lb⟩ := k.history
  refine ⟨k.cycles.trans h.cycles, k.power.trans h.power, k.resetPending.trans h.resetPending,
    k.devices.trans h.devices, k.draws.trans h.draws, k.wf ∘ h.wf, fun hd => ?_, h.refused ∘ k.refused, b ++ a,
    by rw [hb, ha, List.append_assoc], by simp; omega⟩
  have p := h.plain hd
  have q := k.plain (h.devices.trans hd)
  exact ⟨q.1.trans p.1, q.2.1.trans p.2.1, q.2.2.trans p.2.2⟩

theorem Grown.mono {m n : Nat} {s t : State} (h : Grown m s t) (hmn : m ≤ n) : Grown n s t :=
  { h with history := by obtain ⟨a, b, c⟩ := h.history; exact ⟨a, b, by omega⟩ }

/-- Writes of registers and flags alone. -/
theorem grown_registers (s : State) (pc : Addr) (sp a x y : Byte) (f : Flags) :
    Grown 0 s { s with pc := pc, sp := sp, a := a, x := x, y := y, flags := f } :=
  ⟨rfl, rfl, rfl, rfl, rfl, id, fun _ => ⟨rfl, rfl, rfl⟩, id, [], rfl, by simp⟩

theorem grown_setPc (s : State) (v : Addr) : Grown 0 s (s.setPc v) := grown_registers s _ _ _ _ _ _
theorem grown_setSp (s : State) (v : Byte) : Grown 0 s (s.setSp v) := grown_registers s _ _ _ _ _ _
theorem grown_setA (s : State) (v : Byte) : Grown 0 s (s.setA v) := grown_registers s _ _ _ _ _ _
theorem grown_setFlags (s : State) (f : Flags) : Grown 0 s (s.setFlags f) := grown_registers s _ _ _ _ _ _
theorem grown_setNZ (s : State) (v : Byte) : Grown 0 s (s.setNZ v) := grown_registers s _ _ _ _ _ _
theorem grown_setI (s : State) (b : Bool) : Grown 0 s (s.setI b) := grown_registers s _ _ _ _ _ _

/-- No host call from inside an access clears the mark (40_execution_loop.md R141). -/
theorem callbacks_refused (l : List HostCall) : ∀ s : State, (l.foldl State.callback s).refused = none → s.refused = none := by
  induction l with
  | nil => exact fun s h => h
  | cons c l ih =>
    intro s h
    have hc := ih _ h
    revert hc
    cases c <;> simp only [State.callback, State.refuse] <;> (try cases hs : s.refused) <;> simp_all

theorem grown_busRead (a : Addr) (s : State) : Grown 1 s (busRead a s).2 := by
  refine ⟨by simp, by simp, by simp, by simp, by simp, by simp, fun h => ?_, ?_, [.read a (busRead a s).1], by simp, by simp⟩
  · rw [busRead_plain h]; exact ⟨rfl, rfl, rfl⟩
  · unfold busRead; split
    · exact callbacks_refused _ { s with answers := s.answers.tail }
    · exact id

theorem grown_busWrite (a : Addr) (v : Byte) (s : State) : Grown 1 s (busWrite a v s) := by
  refine ⟨by simp, by simp, by simp, by simp, by simp, busWrite_wf _ _ _, fun h => ?_, ?_, [.write a v], by simp, by simp⟩
  · rw [busWrite_plain h]; exact ⟨rfl, rfl, rfl⟩
  · unfold busWrite; split
    · exact callbacks_refused _ { s with answers := s.answers.tail }
    · exact id

theorem grown_busRead16 (a : Addr) (s : State) : Grown 2 s (busRead16 a s).2 :=
  (grown_busRead _ _).trans (grown_busRead _ _)

theorem grown_push (v : Byte) (s : State) : Grown 1 s (push v s) := (grown_busWrite _ _ _).trans (grown_setSp _ _)

theorem grown_pull (s : State) : Grown 1 s (pull s).2 := (grown_setSp _ _).trans (grown_busRead _ _)

theorem grown_resolve (o : Operand) (s : State) : Grown 2 s (resolve o s).state := by
  cases o
  case ind a => exact (grown_busRead _ _).trans (grown_busRead _ _)
  case izx a => exact (grown_busRead _ _).trans (grown_busRead _ _)
  case izy a => exact (grown_busRead _ _).trans (grown_busRead _ _)
  all_goals exact (Grown.refl s).mono (by omega)

theorem grown_loadLoc (l : Loc) (s : State) : Grown 1 s (loadLoc l s).2 := by
  cases l
  case mem a => exact grown_busRead _ _
  all_goals exact (Grown.refl s).mono (by omega)

theorem grown_storeLoc (l : Loc) (v : Byte) (s : State) : Grown 1 s (storeLoc l v s) := by
  cases l
  case mem a => exact grown_busWrite _ _ _
  case acc => exact (grown_setA _ _).mono (by omega)
  all_goals exact (Grown.refl s).mono (by omega)

theorem grown_jumpTo (l : Loc) (s : State) : Grown 0 s (jumpTo l s) := by
  cases l
  case mem a => exact grown_setPc _ _
  case target a => exact grown_setPc _ _
  all_goals exact Grown.refl s

theorem grown_service (vec : Addr) (b : Bool) (s : State) : Grown 5 s (service vec b s) :=
  ((((grown_push _ _).trans (grown_push _ _)).trans (grown_push _ _)).trans (grown_setI _ _)).trans
    ((grown_busRead16 _ _).trans (grown_setPc _ _))

theorem grown_fetchByte (s : State) : Grown 1 s (fetchByte s).2 := (grown_busRead _ _).trans (grown_setPc _ _)

theorem grown_fetchBytes (n : Nat) : ∀ s : State, Grown n s (fetchBytes n s).2 := by
  induction n with
  | zero => exact fun s => Grown.refl s
  | succ n ih => exact fun s => ((grown_fetchByte s).trans (ih _)).mono (by omega)

theorem grown_fetchInstr (s : State) : Grown (1 + operandCount (fetchByte s).1) s (fetchInstr s).state :=
  (grown_fetchByte s).trans (grown_fetchBytes _ _)

/-! ### What the three classes and a branch have done when they answer a next state -/

/-- A read-class meaning: its use of the operand on a state with the registers, flags and memory of the start, the cost
counted. -/
theorem readClass_next {o : Operand} {use : Byte → State → State} {s t : State} (h : readClass o use s = .next t) :
    ∃ (m : Byte) (u : State) (c : Nat), Grown 3 s u ∧
      (u.pc = s.pc ∧ u.sp = s.sp ∧ u.a = s.a ∧ u.x = s.x ∧ u.y = s.y ∧ u.flags = s.flags ∧ u.mem = s.mem) ∧
      (use m u).refused = none ∧ t = { use m u with cycles := c } := by
  obtain ⟨hr, -, rfl⟩ := finish_next.1 h
  exact ⟨_, _, _, (grown_resolve o s).trans (grown_loadLoc _ _),
    ⟨by simp, by simp, by simp, by simp, by simp, by simp, by simp⟩, hr, rfl⟩

/-- A write-class meaning: every register but a possible accumulator place, and every byte but the resolved one, kept. -/
theorem writeClass_next {o : Operand} {v : Byte} {s t : State} (h : writeClass o v s = .next t) :
    t.pc = s.pc ∧ t.sp = s.sp ∧ t.x = s.x ∧ t.y = s.y ∧ t.flags = s.flags ∧ (o ≠ .acc → t.a = s.a) ∧
      ∀ b : Addr, (resolve o s).loc ≠ .mem b → t.peek b = s.peek b := by
  obtain ⟨-, -, rfl⟩ := finish_next.1 h
  refine ⟨by simp, by simp, by simp, by simp, by simp, fun ho => ?_, fun b hb => ?_⟩
  · show (storeLoc _ _ _).a = _
    cases o
    case acc => exact absurd rfl ho
    all_goals simp [resolve, storeLoc, indexed]
  · show (storeLoc _ _ _).peek b = _
    rw [storeLoc_peek_other _ _ _ _ hb]
    exact State.peek_congr (by simp) b

/-- A read-modify-write meaning: the same, with the flags those the operation answers. -/
theorem modifyClass_next {o : Operand} {f : Byte → Flags → Byte × Flags} {s t : State}
    (h : modifyClass o f s = .next t) :
    t.pc = s.pc ∧ t.sp = s.sp ∧ t.x = s.x ∧ t.y = s.y ∧ (o ≠ .acc → t.a = s.a) ∧
      (∀ b : Addr, (resolve o s).loc ≠ .mem b → t.peek b = s.peek b) ∧ ∃ m, t.flags = (f m s.flags).2 := by
  obtain ⟨-, -, rfl⟩ := finish_next.1 h
  refine ⟨by simp, by simp, by simp, by simp, fun ho => ?_, fun b hb => ?_, ?_⟩
  · show (storeLoc _ _ _).a = _
    cases o
    case acc => exact absurd rfl ho
    all_goals simp [resolve, storeLoc, indexed, loadLoc]
  · show (storeLoc _ _ _).peek b = _
    rw [storeLoc_peek_other _ _ _ _ hb]
    exact State.peek_congr (by simp) b
  · exact ⟨(loadLoc (resolve o s).loc (resolve o s).state).1, by simp⟩

/-- A branch: every register but PC, every flag and every byte kept. -/
theorem branch_next {cond : Bool} {off : Byte} {s t : State} (h : branch cond off s = .next t) :
    t.sp = s.sp ∧ t.a = s.a ∧ t.x = s.x ∧ t.y = s.y ∧ t.flags = s.flags ∧ t.mem = s.mem := by
  simp only [branch] at h
  split at h <;>
    (obtain ⟨-, -, rfl⟩ := finish_next.1 h; exact ⟨by simp, by simp, by simp, by simp, by simp, by simp⟩)

/-! ### The step -/

/-- A refused state has no step, so a step's state is not refused. -/
theorem refused_of_step_next {s t : State} (h : step s = .next t) : s.refused = none := by
  cases hr : s.refused with
  | none => rfl
  | some r => simp [step, boundaryStep, hr] at h

/-- The step of a powered core that is not refused. -/
theorem step_powered {s : State} (hr : s.refused = none) (hp : s.power = true) : step s = poweredStep s := by
  simp only [step, boundaryStep, hr, hp, if_true]

/-- The step of a core without power. -/
theorem step_unpowered {s t : State} (hp : s.power = false) (h : step s = .next t) : t = s := by
  simp [step, boundaryStep, refused_of_step_next h, hp] at h
  exact h.symm

/-- The instruction a step fetches has the length of the bytes it fetched. -/
theorem fetchInstr_encode_length (s : State) :
    (encode (fetchInstr s).instr).length = 1 + operandCount (fetchByte s).1 := by
  have := operandCount_le (fetchByte s).1
  simp only [fetchInstr, encode_ofBytes, List.length_cons, List.length_take, List.length_nil]
  omega

end Sys2Proof.Machine
end

