-- ==== Sys2Proof/Laws/PlainRam.lean ====
section
/-!
SUPPORT. What the operand classes, the service sequence and the fetch are on plain RAM (20_memory.md R89).
-/

namespace Sys2Proof.Machine

open Sys2Proof

/-- The end of a step of a ready state. -/
theorem finish_ready {s u : State} (h : s.Ready) {c : Nat} (hc : c ≤ 7) (hr : u.refused = s.refused)
    (hcy : u.cycles = s.cycles) : finish c u = .next (u.costing c) := by
  rw [finish_of_fits (by rw [hr]; exact h.2.1) (by rw [hcy]; exact Config.fits_mono (by omega) h.2.2)]
  rfl

theorem readCycles_le (m : Mode) : readCycles m ≤ 6 := by cases m <;> simp [readCycles]
theorem writeCycles_le (m : Mode) : writeCycles m ≤ 6 := by cases m <;> simp [writeCycles]
theorem modifyCycles_le (m : Mode) : modifyCycles m ≤ 7 := by cases m <;> simp [modifyCycles]
theorem jumpCycles_le (m : Mode) : jumpCycles m ≤ 5 := by cases m <;> simp [jumpCycles]
theorem crossCycles_le (b : Bool) : crossCycles b ≤ 1 := by cases b <;> simp [crossCycles]

/-- A read-class meaning on plain RAM. -/
theorem readClass_plain {o : Operand} {use : Byte → State → State} {s : State} (h : s.Ready)
    (ho : (effectiveAddress o s).isSome ∨ o.mode = .imm ∨ o.mode = .acc)
    (hr : ∀ m t, (use m t).refused = t.refused) (hc : ∀ m t, (use m t).cycles = t.cycles) :
    readClass o use s = .next
      ((use (operandValue o s) { s with history := operandReads o s ++ s.history }).costing
        (readCycles o.mode + crossCycles (pageCross o s))) := by
  have hp := loadLoc_plain h.1 ho
  have h6 := readCycles_le o.mode
  have h1 := crossCycles_le (pageCross o s)
  simp only [readClass, hp.1, hp.2]
  exact finish_ready h (by omega) (by rw [hr]) (by rw [hc])

/-- A write-class meaning on plain RAM. -/
theorem writeClass_plain {o : Operand} (v : Byte) {s : State} {ea : Addr} (h : s.Ready)
    (he : effectiveAddress o s = some ea) :
    writeClass o v s = .next { s.costing (writeCycles o.mode) with
      mem := s.mem.write ea.toNat v, history := .write ea v :: (pointerReads o s ++ s.history) } := by
  have h6 := writeCycles_le o.mode
  simp only [writeClass, resolve_plain h.1 he, storeLoc]
  rw [busWrite_plain (by exact h.1), finish_ready h (by omega) (by rfl) (by rfl)]
  rfl

/-- A read-modify-write meaning on plain RAM. -/
theorem modifyClass_plain {o : Operand} (f : Byte → Flags → Byte × Flags) {s : State} {ea : Addr} (h : s.Ready)
    (he : effectiveAddress o s = some ea) :
    modifyClass o f s = .next { s.costing (modifyCycles o.mode) with
      mem := s.mem.write ea.toNat (f (s.peek ea) s.flags).1
      flags := (f (s.peek ea) s.flags).2
      history := .write ea (f (s.peek ea) s.flags).1 :: s.readOf ea :: (pointerReads o s ++ s.history) } := by
  have h7 := modifyCycles_le o.mode
  simp only [modifyClass, resolve_plain h.1 he, loadLoc, storeLoc]
  rw [busRead_plain (by exact h.1), busWrite_plain (by exact h.1), finish_ready h (by omega) (by rfl) (by rfl)]
  rfl

/-- A shift of the accumulator. -/
theorem modifyClass_acc (f : Byte → Flags → Byte × Flags) {s : State} (h : s.Ready) :
    modifyClass .acc f s = .next { s.costing 2 with a := (f s.a s.flags).1, flags := (f s.a s.flags).2 } := by
  simp only [modifyClass, resolve, loadLoc, storeLoc]
  rw [finish_ready h (by simp [modifyCycles, Operand.mode]) (by rfl) (by rfl)]
  rfl

theorem pushedFlags_eq (b : Bool) (f : Flags) : pushedFlags b f = if b then f.pack ||| 0x10 else f.pack := by
  cases b <;> simp [pushedFlags, carryNat]

/-- A stack slot is no address above the stack page. -/
theorem stackAddr_ne (p : Byte) {a : Addr} (h : a.toNat ≥ 0x200) : a.toNat ≠ (stackAddr p).toNat := by
  have := p.isLt
  simp [stackAddr]
  omega

/-- The service sequence on plain RAM, for a vector above the stack page. -/
theorem service_plain {vec : Addr} (b : Bool) {s : State} (h : s.devices = []) (hv : vec.toNat ≥ 0x200)
    (hv' : (vec + 1).toNat ≥ 0x200) : service vec b s = s.servicedOnRam vec b := by
  simp only [service]
  rw [push_plain h, push_plain (by simp [h]), push_plain (by simp [h]), busRead16_plain (by simp [h])]
  simp only [pushedFlags_eq, State.servicedOnRam, State.setPc, State.setSp, State.setI, State.setFlags, State.poke,
    State.record, State.word, State.peek, State.readOf, Memory.read_write, stackAddr_ne _ hv, stackAddr_ne _ hv',
    if_false, BitVec.sub_sub]
  rfl

/-- The fetch on plain RAM. -/
theorem fetchInstr_plain {s : State} (h : s.devices = []) :
    fetchInstr s =
      { instr := Instr.ofBytes (s.peek s.pc)
          (if operandCount (s.peek s.pc) ≥ 1 then s.peek (s.pc + 1) else 0)
          (if operandCount (s.peek s.pc) = 2 then s.peek (s.pc + 2) else 0)
        state := s.fetched (1 + operandCount (s.peek s.pc)) } := by
  simp only [fetchInstr, fetchByte_plain h]
  have hc := operandCount_le (s.peek s.pc)
  have hn : operandCount (s.peek s.pc) = 0 ∨ operandCount (s.peek s.pc) = 1 ∨ operandCount (s.peek s.pc) = 2 := by
    omega
  rcases hn with hn | hn | hn <;> rw [hn] <;> simp only [fetchBytes]
  · simp [State.fetched, State.setPc, State.record, fetchReads, State.peek, State.readOf]
  · rw [fetchByte_plain (by exact h)]
    simp [State.fetched, State.setPc, State.record, fetchReads, State.peek, State.readOf, BitVec.add_assoc]
  · rw [fetchByte_plain (by exact h), fetchByte_plain (by exact h)]
    simp [State.fetched, State.setPc, State.record, fetchReads, State.peek, State.readOf, BitVec.add_assoc]

end Sys2Proof.Machine
end

