-- ==== Sys2Proof/Tests/Slice0.lean ====
section
/-!
SUPPORT. The model's own tests: the refusal of ill-formed terms, words of the spec's encodings, one or two steps of each
instruction with the results of spec/95_test_vectors.md, the events, and for each statement with hypotheses a concrete
state and operands that meet them.
-/

namespace Sys2Proof.Tests

open Sys2Proof Sys2Proof.Machine

/-! ### Helpers -/

/-- The start state of spec/95_test_vectors.md: SP 0xFD, A, X and Y 0, the flags of a flag byte, plain RAM that holds
`code` at `pc` and 0 elsewhere, no cycle counted. -/
def start (pc : Addr) (p : Byte) (code : List Byte) : State :=
  ({ State.reset with pc := pc, flags := Flags.unpack p, cycles := 0, history := [] } : State).pokes pc code

/-- A test of what an outcome holds if it is a next state. -/
def holds (r : Result) (p : State → Bool) : Bool :=
  match r with
  | .next t => p t
  | .refused _ => false
  | .fault f => nomatch f

/-- A test of the state one step after another. -/
def after (s : State) (p : State → Bool) : Bool := holds (step s) p

/-- Whether a step answers a next state. -/
def completes (r : Result) : Bool := holds r (fun _ => true)

/-- Whether an outcome is a given refusal. -/
def refusedWith (r : Result) (why : Refusal) : Bool :=
  match r with
  | .next _ => false
  | .refused w => w == why
  | .fault f => nomatch f

/-- PC, the flag byte and the cycles counted. -/
def pcFlagsCycles (pc : Addr) (p : Byte) (cycles : Nat) (t : State) : Bool :=
  t.pc == pc && t.flags.pack == p && t.cycles == cycles

/-- The accesses of a state, oldest first. -/
def accesses (s : State) : List Access := s.history.reverse

/-! ### Ill-formed terms are refused: one for each list of modes, and one for the undocumented values -/

theorem test_wellFormed_refuses :
    (Instr.adc .acc).wellFormed = false ∧ (Instr.and (.zpy 0x10)).wellFormed = false ∧
    (Instr.sta (.imm 0x01)).wellFormed = false ∧ (Instr.ldx (.zpx 0x10)).wellFormed = false ∧
    (Instr.ldx (.abx 0x1234)).wellFormed = false ∧ (Instr.ldy (.aby 0x1234)).wellFormed = false ∧
    (Instr.stx (.zpx 0x10)).wellFormed = false ∧ (Instr.sty (.zpy 0x10)).wellFormed = false ∧
    (Instr.cpx (.zpx 0x10)).wellFormed = false ∧ (Instr.bit (.imm 0x01)).wellFormed = false ∧
    (Instr.inc .acc).wellFormed = false ∧ (Instr.asl (.aby 0x1234)).wellFormed = false ∧
    (Instr.jmp (.izx 0x10)).wellFormed = false ∧ (Instr.undoc 0xEA).wellFormed = false := by decide

theorem test_wellFormed_accepts :
    (Instr.adc (.izy 0xFF)).wellFormed = true ∧ (Instr.sta (.izx 0x00)).wellFormed = true ∧
    (Instr.ldx (.zpy 0xFF)).wellFormed = true ∧ (Instr.ror .acc).wellFormed = true ∧
    (Instr.jmp (.ind 0xFFFF)).wellFormed = true ∧ (Instr.undoc 0xFF).wellFormed = true := by decide

/-- The meaning of an ill-formed term is a refusal by name (log entry 11). -/
theorem test_ill_formed_term_refused :
    refusedWith (exec (.sta (.imm 0x01)) State.reset) .noSuchForm = true ∧
    refusedWith (exec (.adc .acc) State.reset) .noSuchForm = true := by decide

/-! ### Words written out from the spec's encodings decode to their instruction -/

/-- 42_load_store_transfer.md: A9 80, B6 10 and A0 FF are examples of R210, R110 and the vectors; 1010 1010 is TAX. -/
theorem test_decode_loads_stores_transfers :
    decodeTableWord 16 0x80A9 = some (.lda (.imm 0x80)) ∧
    decodeTableWord 16 0x10B6 = some (.ldx (.zpy 0x10)) ∧
    decodeTableWord 16 0xFFA0 = some (.ldy (.imm 0xFF)) ∧
    decodeTableWord 24 0x12FF9D = some (.sta (.abx 0x12FF)) ∧
    decodeTableWord 16 0xF096 = some (.stx (.zpy 0xF0)) ∧
    decodeTableWord 16 0x1094 = some (.sty (.zpx 0x10)) ∧
    decodeTableWord 8 0b10101010 = some .tax ∧ decodeTableWord 8 0b10101000 = some .tay ∧
    decodeTableWord 8 0b10001010 = some .txa ∧ decodeTableWord 8 0b10011000 = some .tya ∧
    decodeTableWord 8 0b10111010 = some .tsx ∧ decodeTableWord 8 0b10011010 = some .txs := by decide

/-- 43_stack.md R250 to R253. -/
theorem test_decode_stack :
    decodeTableWord 8 0b01001000 = some .pha ∧ decodeTableWord 8 0b00001000 = some .php ∧
    decodeTableWord 8 0b01101000 = some .pla ∧ decodeTableWord 8 0b00101000 = some .plp := by decide

/-- The tables of 44_arith_logic.md R274 to R289, a different mode each. -/
theorem test_decode_arithmetic :
    decodeTableWord 16 0x0569 = some (.adc (.imm 0x05)) ∧
    decodeTableWord 16 0x40F1 = some (.sbc (.izy 0x40)) ∧
    decodeTableWord 16 0x2021 = some (.and (.izx 0x20)) ∧
    decodeTableWord 24 0x123419 = some (.ora (.aby 0x1234)) ∧
    decodeTableWord 24 0x12344D = some (.eor (.abs 0x1234)) ∧
    decodeTableWord 16 0x10D5 = some (.cmp (.zpx 0x10)) ∧
    decodeTableWord 16 0x05E0 = some (.cpx (.imm 0x05)) ∧
    decodeTableWord 16 0x10C4 = some (.cpy (.zp 0x10)) ∧
    decodeTableWord 24 0x12002C = some (.bit (.abs 0x1200)) ∧
    decodeTableWord 24 0x12FFFE = some (.inc (.abx 0x12FF)) ∧
    decodeTableWord 16 0xFFD6 = some (.dec (.zpx 0xFF)) ∧
    decodeTableWord 8 0b11101000 = some .inx ∧ decodeTableWord 8 0b11001000 = some .iny ∧
    decodeTableWord 8 0b11001010 = some .dex ∧ decodeTableWord 8 0b10001000 = some .dey := by decide

/-- The tables of 45_shift_rotate.md R330 to R333. -/
theorem test_decode_shifts :
    decodeTableWord 8 0b00001010 = some (.asl .acc) ∧
    decodeTableWord 16 0x1046 = some (.lsr (.zp 0x10)) ∧
    decodeTableWord 24 0x12342E = some (.rol (.abs 0x1234)) ∧
    decodeTableWord 24 0x10007E = some (.ror (.abx 0x1000)) := by decide

/-- The tables of 46_control.md R361 to R373; the high byte of JSR's target is not part of what is decoded (log entry
10). -/
theorem test_decode_control :
    decodeTableWord 16 0x1010 = some (.bpl 0x10) ∧ decodeTableWord 16 0x1030 = some (.bmi 0x10) ∧
    decodeTableWord 16 0x7F50 = some (.bvc 0x7F) ∧ decodeTableWord 16 0xFE70 = some (.bvs 0xFE) ∧
    decodeTableWord 16 0x1090 = some (.bcc 0x10) ∧ decodeTableWord 16 0x10B0 = some (.bcs 0x10) ∧
    decodeTableWord 16 0xFED0 = some (.bne 0xFE) ∧ decodeTableWord 16 0x80F0 = some (.beq 0x80) ∧
    decodeTableWord 24 0x80004C = some (.jmp (.abs 0x8000)) ∧
    decodeTableWord 24 0x12FF6C = some (.jmp (.ind 0x12FF)) ∧
    decodeTableWord 24 0x123420 = some (.jsr 0x34) ∧
    decodeTableWord 8 0b01100000 = some .rts ∧ decodeTableWord 16 0xEE00 = some .brk ∧
    decodeTableWord 8 0b01000000 = some .rti := by decide

/-- The tables of 47_flags_nop.md R400 to R407, and 48_undocumented.md R421. -/
theorem test_decode_flags_and_undocumented :
    decodeTableWord 8 0b00011000 = some .clc ∧ decodeTableWord 8 0b00111000 = some .sec ∧
    decodeTableWord 8 0b01011000 = some .cli ∧ decodeTableWord 8 0b01111000 = some .sei ∧
    decodeTableWord 8 0b11011000 = some .cld ∧ decodeTableWord 8 0b11111000 = some .sed ∧
    decodeTableWord 8 0b10111000 = some .clv ∧ decodeTableWord 8 0b11101010 = some .nop ∧
    decodeTableWord 8 0x02 = some (.undoc 0x02) ∧ decodeTableWord 8 0xFF = some (.undoc 0xFF) := by decide

/-- 30_encoding.md R110: the bytes of its examples, written by the encoder. -/
theorem test_encode :
    encode (.lda (.abs 0x1234)) = [0xAD, 0x34, 0x12] ∧ encode (.lda (.abx 0x1234)) = [0xBD, 0x34, 0x12] ∧
    encode (.ldx (.zpy 0x10)) = [0xB6, 0x10] ∧ encode (.jmp (.ind 0x1234)) = [0x6C, 0x34, 0x12] ∧
    encode (.lda (.izx 0x10)) = [0xA1, 0x10] ∧ encode (.lda (.izy 0x10)) = [0xB1, 0x10] ∧
    encode (.bne 0xFE) = [0xD0, 0xFE] ∧ encode (.asl .acc) = [0x0A] ∧ encode .inx = [0xE8] := by decide

/-- Bytes that hold no instruction: none at all, and an opcode without its operand bytes. -/
theorem test_decode_truncated :
    (match decode [] with | .error e => e == .noOpcode | .ok _ => false) = true ∧
    (match decode [0xAD, 0x34] with | .error e => e == .truncated 0xAD | .ok _ => false) = true := by decide

/-! ### Steps of each instruction -/

/-- 95_test_vectors.md 2.1 #1: LDA #$00. -/
theorem test_lda_zero :
    after (start 0x0200 0x20 [0xA9, 0x00] |>.setA 0x55)
      (fun t => pcFlagsCycles 0x0202 0x22 2 t && t.a == 0x00) = true := by decide

/-- 95_test_vectors.md 2.1 #10: LDA $FFFF,Y. -/
theorem test_lda_absolute_y_wraps_and_crosses :
    after (start 0x0200 0x20 [0xB9, 0xFF, 0xFF] |>.setY 0x02 |>.poke 0x0001 0x99)
      (fun t => pcFlagsCycles 0x0203 0xA0 5 t && t.a == 0x99) = true := by decide

/-- 95_test_vectors.md 2.1 #5: LDX $10,Y. -/
theorem test_ldx_zero_page_y_wraps :
    after (start 0x0200 0x20 [0xB6, 0x10] |>.setY 0xFF |>.poke 0x000F 0x01)
      (fun t => pcFlagsCycles 0x0202 0x20 4 t && t.x == 0x01) = true := by decide

/-- 95_test_vectors.md 2.1 #6: LDY #$FF. -/
theorem test_ldy_immediate_negative :
    after (start 0x0200 0x20 [0xA0, 0xFF])
      (fun t => pcFlagsCycles 0x0202 0xA0 2 t && t.y == 0xFF) = true := by decide

/-- 95_test_vectors.md 2.1 #14: STA $12FF,X. -/
theorem test_sta_absolute_x_pays_no_cross :
    after (start 0x0200 0x20 [0x9D, 0xFF, 0x12] |>.setA 0x33 |>.setX 0x01)
      (fun t => pcFlagsCycles 0x0203 0x20 5 t && t.peek 0x1300 == 0x33) = true := by decide

/-- 95_test_vectors.md 2.1 #15: STA ($20),Y. -/
theorem test_sta_indirect_y :
    after (start 0x0200 0x20 [0x91, 0x20] |>.setA 0x44 |>.setY 0x10 |>.poke 0x0020 0xF8 |>.poke 0x0021 0x03)
      (fun t => pcFlagsCycles 0x0202 0x20 6 t && t.peek 0x0408 == 0x44) = true := by decide

/-- 95_test_vectors.md 2.1 #16: STX $F0,Y. -/
theorem test_stx_zero_page_y_wraps :
    after (start 0x0200 0x20 [0x96, 0xF0] |>.setX 0xAB |>.setY 0x20)
      (fun t => pcFlagsCycles 0x0202 0x20 4 t && t.peek 0x0010 == 0xAB) = true := by decide

/-- 95_test_vectors.md 2.1 #17: STY $10,X. -/
theorem test_sty_zero_page_x :
    after (start 0x0200 0x20 [0x94, 0x10] |>.setX 0x01 |>.setY 0xCD)
      (fun t => pcFlagsCycles 0x0202 0x20 4 t && t.peek 0x0011 == 0xCD) = true := by decide

/-- 95_test_vectors.md 2.1 #18: TAX. -/
theorem test_tax_sets_z :
    after (start 0x0200 0x20 [0xAA] |>.setX 0x12)
      (fun t => pcFlagsCycles 0x0201 0x22 2 t && t.x == 0x00) = true := by decide

/-- 95_test_vectors.md 2.1 #19: TXA. -/
theorem test_txa_sets_n :
    after (start 0x0200 0x20 [0x8A] |>.setX 0x80)
      (fun t => pcFlagsCycles 0x0201 0xA0 2 t && t.a == 0x80) = true := by decide

/-- 95_test_vectors.md 2.1 #20: TAY. -/
theorem test_tay :
    after (start 0x0200 0x20 [0xA8] |>.setA 0x7F)
      (fun t => pcFlagsCycles 0x0201 0x20 2 t && t.y == 0x7F) = true := by decide

/-- 95_test_vectors.md 2.1 #21: TYA. -/
theorem test_tya_sets_z :
    after (start 0x0200 0x20 [0x98] |>.setA 0x7F)
      (fun t => pcFlagsCycles 0x0201 0x22 2 t && t.a == 0x00) = true := by decide

/-- 95_test_vectors.md 2.1 #22: TSX. -/
theorem test_tsx_sets_n :
    after (start 0x0200 0x20 [0xBA])
      (fun t => pcFlagsCycles 0x0201 0xA0 2 t && t.x == 0xFD) = true := by decide

/-- 95_test_vectors.md 2.1 #23: TXS. -/
theorem test_txs_writes_no_flag :
    after (start 0x0200 0xA0 [0x9A])
      (fun t => pcFlagsCycles 0x0201 0xA0 2 t && t.sp == 0x00) = true := by decide

/-- 95_test_vectors.md 2.2 #1: PHA. -/
theorem test_pha :
    after (start 0x0200 0x20 [0x48] |>.setA 0x5A)
      (fun t => pcFlagsCycles 0x0201 0x20 3 t && t.sp == 0xFC && t.peek 0x01FD == 0x5A) = true := by decide

/-- 95_test_vectors.md 2.2 #2: PHA. -/
theorem test_pha_wraps :
    after (start 0x0200 0x20 [0x48] |>.setSp 0x00 |>.setA 0x5A)
      (fun t => pcFlagsCycles 0x0201 0x20 3 t && t.sp == 0xFF && t.peek 0x0100 == 0x5A) = true := by decide

/-- 95_test_vectors.md 2.2 #3: PHP. -/
theorem test_php_sets_break_in_copy :
    after (start 0x0200 0xA1 [0x08])
      (fun t => pcFlagsCycles 0x0201 0xA1 3 t && t.sp == 0xFC && t.peek 0x01FD == 0xB1) = true := by decide

/-- 95_test_vectors.md 2.2 #4: PHP. -/
theorem test_php_no_flag :
    after (start 0x0200 0x20 [0x08])
      (fun t => pcFlagsCycles 0x0201 0x20 3 t && t.sp == 0xFC && t.peek 0x01FD == 0x30) = true := by decide

/-- 95_test_vectors.md 2.2 #5: PLA. -/
theorem test_pla_sets_z :
    after (start 0x0200 0x20 [0x68] |>.setSp 0xFC |>.setA 0x11)
      (fun t => pcFlagsCycles 0x0201 0x22 4 t && t.sp == 0xFD && t.a == 0x00) = true := by decide

/-- 95_test_vectors.md 2.2 #6: PLA. -/
theorem test_pla_wraps :
    after (start 0x0200 0x20 [0x68] |>.setSp 0xFF |>.poke 0x0100 0x80)
      (fun t => pcFlagsCycles 0x0201 0xA0 4 t && t.sp == 0x00 && t.a == 0x80) = true := by decide

/-- 95_test_vectors.md 2.2 #7: PLP. -/
theorem test_plp_all_flags :
    after (start 0x0200 0x20 [0x28] |>.setSp 0xFC |>.poke 0x01FD 0xFF)
      (fun t => pcFlagsCycles 0x0201 0xEF 4 t && t.sp == 0xFD) = true := by decide

/-- 95_test_vectors.md 2.2 #8: PLP. -/
theorem test_plp_no_flag :
    after (start 0x0200 0xEF [0x28] |>.setSp 0xFC |>.poke 0x01FD 0x10)
      (fun t => pcFlagsCycles 0x0201 0x20 4 t && t.sp == 0xFD) = true := by decide

/-- 95_test_vectors.md 2.3 #5: ADC #$FF. -/
theorem test_adc_negative_overflow :
    after (start 0x0200 0x20 [0x69, 0xFF] |>.setA 0x80)
      (fun t => pcFlagsCycles 0x0202 0x61 2 t && t.a == 0x7F) = true := by decide

/-- 95_test_vectors.md 2.3 #13: ADC #$46. -/
theorem test_adc_decimal_carry :
    after (start 0x0200 0x29 [0x69, 0x46] |>.setA 0x58)
      (fun t => pcFlagsCycles 0x0202 0xE9 2 t && t.a == 0x05) = true := by decide

/-- 95_test_vectors.md 2.3 #9: SBC #$B0. -/
theorem test_sbc_overflow :
    after (start 0x0200 0x21 [0xE9, 0xB0] |>.setA 0x50)
      (fun t => pcFlagsCycles 0x0202 0xE0 2 t && t.a == 0xA0) = true := by decide

/-- 95_test_vectors.md 2.3 #17: SBC #$01. -/
theorem test_sbc_decimal_borrow :
    after (start 0x0200 0x29 [0xE9, 0x01])
      (fun t => pcFlagsCycles 0x0202 0xA8 2 t && t.a == 0x99) = true := by decide

/-- 95_test_vectors.md 2.3 #21: AND #$0F. -/
theorem test_and_zero :
    after (start 0x0200 0x20 [0x29, 0x0F] |>.setA 0xF0)
      (fun t => pcFlagsCycles 0x0202 0x22 2 t && t.a == 0x00) = true := by decide

/-- 95_test_vectors.md 2.3 #22: ORA #$80. -/
theorem test_ora_negative :
    after (start 0x0200 0x20 [0x09, 0x80] |>.setA 0x01)
      (fun t => pcFlagsCycles 0x0202 0xA0 2 t && t.a == 0x81) = true := by decide

/-- 95_test_vectors.md 2.3 #23: EOR #$FF. -/
theorem test_eor_zero :
    after (start 0x0200 0xA0 [0x49, 0xFF] |>.setA 0xFF)
      (fun t => pcFlagsCycles 0x0202 0x22 2 t && t.a == 0x00) = true := by decide

/-- 95_test_vectors.md 2.3 #24: EOR #$FF. -/
theorem test_eor_negative :
    after (start 0x0200 0x20 [0x49, 0xFF] |>.setA 0x0F)
      (fun t => pcFlagsCycles 0x0202 0xA0 2 t && t.a == 0xF0) = true := by decide

/-- 95_test_vectors.md 2.4 #1: CMP #$40. -/
theorem test_cmp_equal :
    after (start 0x0200 0x20 [0xC9, 0x40] |>.setA 0x40)
      (fun t => pcFlagsCycles 0x0202 0x23 2 t) = true := by decide

/-- 95_test_vectors.md 2.4 #4: CMP #$01. -/
theorem test_cmp_is_unsigned :
    after (start 0x0200 0x20 [0xC9, 0x01] |>.setA 0xFF)
      (fun t => pcFlagsCycles 0x0202 0xA1 2 t) = true := by decide

/-- 95_test_vectors.md 2.4 #5: CPX #$00. -/
theorem test_cpx :
    after (start 0x0200 0x20 [0xE0, 0x00] |>.setX 0x80)
      (fun t => pcFlagsCycles 0x0202 0xA1 2 t) = true := by decide

/-- 95_test_vectors.md 2.4 #6: CPY $10. -/
theorem test_cpy_zero_page :
    after (start 0x0200 0x20 [0xC4, 0x10] |>.poke 0x0010 0x01)
      (fun t => pcFlagsCycles 0x0202 0xA0 3 t) = true := by decide

/-- 95_test_vectors.md 2.4 #7: BIT $10. -/
theorem test_bit_copies_n_v :
    after (start 0x0200 0x20 [0x24, 0x10] |>.setA 0x3F |>.poke 0x0010 0xC0)
      (fun t => pcFlagsCycles 0x0202 0xE2 3 t) = true := by decide

/-- 95_test_vectors.md 2.4 #8: BIT $1200. -/
theorem test_bit_absolute :
    after (start 0x0200 0xE2 [0x2C, 0x00, 0x12] |>.setA 0x01 |>.poke 0x1200 0x01)
      (fun t => pcFlagsCycles 0x0203 0x20 4 t) = true := by decide

/-- 95_test_vectors.md 2.5 #1: INC $10. -/
theorem test_inc_wraps :
    after (start 0x0200 0x20 [0xE6, 0x10] |>.poke 0x0010 0xFF)
      (fun t => pcFlagsCycles 0x0202 0x22 5 t && t.peek 0x0010 == 0x00) = true := by decide

/-- 95_test_vectors.md 2.5 #2: INC $12FF,X. -/
theorem test_inc_absolute_x :
    after (start 0x0200 0x20 [0xFE, 0xFF, 0x12] |>.setX 0x01 |>.poke 0x1300 0x7F)
      (fun t => pcFlagsCycles 0x0203 0xA0 7 t && t.peek 0x1300 == 0x80) = true := by decide

/-- 95_test_vectors.md 2.5 #3: DEC $10. -/
theorem test_dec_wraps :
    after (start 0x0200 0x20 [0xC6, 0x10])
      (fun t => pcFlagsCycles 0x0202 0xA0 5 t && t.peek 0x0010 == 0xFF) = true := by decide

/-- 95_test_vectors.md 2.5 #4: DEC $FF,X. -/
theorem test_dec_zero_page_x_wraps :
    after (start 0x0200 0x20 [0xD6, 0xFF] |>.setX 0x02 |>.poke 0x0001 0x01)
      (fun t => pcFlagsCycles 0x0202 0x22 6 t && t.peek 0x0001 == 0x00) = true := by decide

/-- 95_test_vectors.md 2.5 #5: INX. -/
theorem test_inx_wraps :
    after (start 0x0200 0x20 [0xE8] |>.setX 0xFF)
      (fun t => pcFlagsCycles 0x0201 0x22 2 t && t.x == 0x00) = true := by decide

/-- 95_test_vectors.md 2.5 #6: INY. -/
theorem test_iny_sets_n :
    after (start 0x0200 0x20 [0xC8] |>.setY 0x7F)
      (fun t => pcFlagsCycles 0x0201 0xA0 2 t && t.y == 0x80) = true := by decide

/-- 95_test_vectors.md 2.5 #7: DEX. -/
theorem test_dex_wraps :
    after (start 0x0200 0x20 [0xCA])
      (fun t => pcFlagsCycles 0x0201 0xA0 2 t && t.x == 0xFF) = true := by decide

/-- 95_test_vectors.md 2.5 #8: DEY. -/
theorem test_dey_sets_z :
    after (start 0x0200 0x20 [0x88] |>.setY 0x01)
      (fun t => pcFlagsCycles 0x0201 0x22 2 t && t.y == 0x00) = true := by decide

/-- 95_test_vectors.md 2.6 #1: ASL A. -/
theorem test_asl_accumulator :
    after (start 0x0200 0x20 [0x0A] |>.setA 0x81)
      (fun t => pcFlagsCycles 0x0201 0x21 2 t && t.a == 0x02) = true := by decide

/-- 95_test_vectors.md 2.6 #2: ASL $10. -/
theorem test_asl_memory :
    after (start 0x0200 0x21 [0x06, 0x10] |>.poke 0x0010 0x40)
      (fun t => pcFlagsCycles 0x0202 0xA0 5 t && t.peek 0x0010 == 0x80) = true := by decide

/-- 95_test_vectors.md 2.6 #3: LSR A. -/
theorem test_lsr_accumulator :
    after (start 0x0200 0x20 [0x4A] |>.setA 0x01)
      (fun t => pcFlagsCycles 0x0201 0x23 2 t && t.a == 0x00) = true := by decide

/-- 95_test_vectors.md 2.6 #4: LSR $10. -/
theorem test_lsr_clears_n :
    after (start 0x0200 0xA0 [0x46, 0x10] |>.poke 0x0010 0x80)
      (fun t => pcFlagsCycles 0x0202 0x20 5 t && t.peek 0x0010 == 0x40) = true := by decide

/-- 95_test_vectors.md 2.6 #5: ROL A. -/
theorem test_rol_carry_out :
    after (start 0x0200 0x20 [0x2A] |>.setA 0x80)
      (fun t => pcFlagsCycles 0x0201 0x23 2 t && t.a == 0x00) = true := by decide

/-- 95_test_vectors.md 2.6 #6: ROL A. -/
theorem test_rol_carry_in :
    after (start 0x0200 0x21 [0x2A] |>.setA 0x40)
      (fun t => pcFlagsCycles 0x0201 0xA0 2 t && t.a == 0x81) = true := by decide

/-- 95_test_vectors.md 2.6 #7: ROR A. -/
theorem test_ror_carry_in :
    after (start 0x0200 0x21 [0x6A] |>.setA 0x01)
      (fun t => pcFlagsCycles 0x0201 0xA1 2 t && t.a == 0x80) = true := by decide

/-- 95_test_vectors.md 2.6 #8: ROR $1000,X. -/
theorem test_ror_absolute_x :
    after (start 0x0200 0x20 [0x7E, 0x00, 0x10] |>.setX 0x05 |>.poke 0x1005 0x02)
      (fun t => pcFlagsCycles 0x0203 0x20 7 t && t.peek 0x1005 == 0x01) = true := by decide

/-- 95_test_vectors.md 2.7 #1: BPL $0212. -/
theorem test_bpl_taken :
    after (start 0x0200 0x20 [0x10, 0x10])
      (fun t => pcFlagsCycles 0x0212 0x20 3 t) = true := by decide

/-- 95_test_vectors.md 2.7 #2: BPL $0212. -/
theorem test_bpl_not_taken :
    after (start 0x0200 0xA0 [0x10, 0x10])
      (fun t => pcFlagsCycles 0x0202 0xA0 2 t) = true := by decide

/-- 95_test_vectors.md 2.7 #3: BMI $0212. -/
theorem test_bmi_taken :
    after (start 0x0200 0xA0 [0x30, 0x10])
      (fun t => pcFlagsCycles 0x0212 0xA0 3 t) = true := by decide

/-- 95_test_vectors.md 2.7 #4: BMI $0212. -/
theorem test_bmi_not_taken :
    after (start 0x0200 0x20 [0x30, 0x10])
      (fun t => pcFlagsCycles 0x0202 0x20 2 t) = true := by decide

/-- 95_test_vectors.md 2.7 #5: BVC $0212. -/
theorem test_bvc_taken :
    after (start 0x0200 0x20 [0x50, 0x10])
      (fun t => pcFlagsCycles 0x0212 0x20 3 t) = true := by decide

/-- 95_test_vectors.md 2.7 #6: BVC $0212. -/
theorem test_bvc_not_taken :
    after (start 0x0200 0x60 [0x50, 0x10])
      (fun t => pcFlagsCycles 0x0202 0x60 2 t) = true := by decide

/-- 95_test_vectors.md 2.7 #7: BVS $0212. -/
theorem test_bvs_taken :
    after (start 0x0200 0x60 [0x70, 0x10])
      (fun t => pcFlagsCycles 0x0212 0x60 3 t) = true := by decide

/-- 95_test_vectors.md 2.7 #8: BVS $0212. -/
theorem test_bvs_not_taken :
    after (start 0x0200 0x20 [0x70, 0x10])
      (fun t => pcFlagsCycles 0x0202 0x20 2 t) = true := by decide

/-- 95_test_vectors.md 2.7 #9: BCC $0212. -/
theorem test_bcc_taken :
    after (start 0x0200 0x20 [0x90, 0x10])
      (fun t => pcFlagsCycles 0x0212 0x20 3 t) = true := by decide

/-- 95_test_vectors.md 2.7 #10: BCC $0212. -/
theorem test_bcc_not_taken :
    after (start 0x0200 0x21 [0x90, 0x10])
      (fun t => pcFlagsCycles 0x0202 0x21 2 t) = true := by decide

/-- 95_test_vectors.md 2.7 #11: BCS $0212. -/
theorem test_bcs_taken :
    after (start 0x0200 0x21 [0xB0, 0x10])
      (fun t => pcFlagsCycles 0x0212 0x21 3 t) = true := by decide

/-- 95_test_vectors.md 2.7 #12: BCS $0212. -/
theorem test_bcs_not_taken :
    after (start 0x0200 0x20 [0xB0, 0x10])
      (fun t => pcFlagsCycles 0x0202 0x20 2 t) = true := by decide

/-- 95_test_vectors.md 2.7 #17: BNE $020E. -/
theorem test_bne_backward :
    after (start 0x0210 0x20 [0xD0, 0xFC])
      (fun t => pcFlagsCycles 0x020E 0x20 3 t) = true := by decide

/-- 95_test_vectors.md 2.7 #14: BNE $0212. -/
theorem test_bne_not_taken :
    after (start 0x0200 0x22 [0xD0, 0x10])
      (fun t => pcFlagsCycles 0x0202 0x22 2 t) = true := by decide

/-- 95_test_vectors.md 2.7 #19: BEQ $0300. -/
theorem test_beq_page_of_next_instruction :
    after (start 0x02FE 0x22 [0xF0, 0x00])
      (fun t => pcFlagsCycles 0x0300 0x22 3 t) = true := by decide

/-- 95_test_vectors.md 2.7 #22: BEQ $0071. -/
theorem test_beq_wraps_to_other_page :
    after (start 0xFFF0 0x22 [0xF0, 0x7F])
      (fun t => pcFlagsCycles 0x0071 0x22 4 t) = true := by decide

/-- 95_test_vectors.md 2.8 #1: JMP $1234. -/
theorem test_jmp_absolute :
    after (start 0x0200 0x20 [0x4C, 0x34, 0x12])
      (fun t => pcFlagsCycles 0x1234 0x20 3 t) = true := by decide

/-- 95_test_vectors.md 2.8 #3: JMP ($02FF). -/
theorem test_jmp_indirect_page_wrap :
    after (start 0x0400 0x20 [0x6C, 0xFF, 0x02] |>.poke 0x0200 0x12 |>.poke 0x02FF 0x34 |>.poke 0x0300 0x99)
      (fun t => pcFlagsCycles 0x1234 0x20 5 t) = true := by decide

/-- 95_test_vectors.md 2.8 #4: JSR $1234. -/
theorem test_jsr :
    after (start 0x0200 0x20 [0x20, 0x34, 0x12])
      (fun t => pcFlagsCycles 0x1234 0x20 6 t && t.sp == 0xFB &&
        t.peek 0x01FD == 0x02 && t.peek 0x01FC == 0x02) = true := by decide

/-- 95_test_vectors.md 2.8 #5: JSR $8000. -/
theorem test_jsr_wraps :
    after (start 0x02FE 0x20 [0x20, 0x00, 0x80] |>.setSp 0x00)
      (fun t => pcFlagsCycles 0x8000 0x20 6 t && t.sp == 0xFE &&
        t.peek 0x0100 == 0x03 && t.peek 0x01FF == 0x00) = true := by decide

/-- 95_test_vectors.md 2.8 #6: RTS. -/
theorem test_rts :
    after (start 0x0200 0x20 [0x60] |>.setSp 0xFB |>.poke 0x01FC 0x02 |>.poke 0x01FD 0x02)
      (fun t => pcFlagsCycles 0x0203 0x20 6 t && t.sp == 0xFD) = true := by decide

/-- 95_test_vectors.md 2.8 #7: RTS. -/
theorem test_rts_wraps :
    after (start 0x0200 0x20 [0x60] |>.setSp 0xFB |>.poke 0x01FC 0xFF |>.poke 0x01FD 0xFF)
      (fun t => pcFlagsCycles 0x0000 0x20 6 t && t.sp == 0xFD) = true := by decide

/-- 95_test_vectors.md 2.8 #8: BRK. -/
theorem test_brk_skips_padding :
    after (start 0x0300 0x20 [0x00, 0xEE] |>.setSp 0xFF |>.poke 0xFFFF 0x90)
      (fun t => pcFlagsCycles 0x9000 0x24 7 t && t.sp == 0xFC &&
        t.peek 0x01FF == 0x03 && t.peek 0x01FE == 0x02 && t.peek 0x01FD == 0x30) = true := by decide

/-- 95_test_vectors.md 2.8 #9: BRK. -/
theorem test_brk_keeps_d :
    after (start 0x0200 0xEB [0x00, 0x00] |>.poke 0xFFFF 0x90)
      (fun t => pcFlagsCycles 0x9000 0xEF 7 t && t.sp == 0xFA &&
        t.peek 0x01FD == 0x02 && t.peek 0x01FC == 0x02 && t.peek 0x01FB == 0xFB) = true := by decide

/-- 95_test_vectors.md 2.8 #10: RTI. -/
theorem test_rti_adds_no_1 :
    after (start 0x0200 0x24 [0x40] |>.setSp 0xFA |>.poke 0x01FB 0xC3 |>.poke 0x01FC 0x02 |>.poke 0x01FD 0x04)
      (fun t => pcFlagsCycles 0x0402 0xE3 6 t && t.sp == 0xFD) = true := by decide

/-- 95_test_vectors.md 2.8 #11: RTI. -/
theorem test_rti_no_flag :
    after (start 0x0200 0xE7 [0x40] |>.setSp 0xFA |>.poke 0x01FB 0x30 |>.poke 0x01FD 0x80)
      (fun t => pcFlagsCycles 0x8000 0x20 6 t && t.sp == 0xFD) = true := by decide

/-- 95_test_vectors.md 2.9 #1: CLC. -/
theorem test_clc :
    after (start 0x0200 0xE7 [0x18])
      (fun t => pcFlagsCycles 0x0201 0xE6 2 t) = true := by decide

/-- 95_test_vectors.md 2.9 #2: SEC. -/
theorem test_sec :
    after (start 0x0200 0x20 [0x38])
      (fun t => pcFlagsCycles 0x0201 0x21 2 t) = true := by decide

/-- 95_test_vectors.md 2.9 #3: CLI. -/
theorem test_cli :
    after (start 0x0200 0x24 [0x58])
      (fun t => pcFlagsCycles 0x0201 0x20 2 t) = true := by decide

/-- 95_test_vectors.md 2.9 #4: SEI. -/
theorem test_sei :
    after (start 0x0200 0x20 [0x78])
      (fun t => pcFlagsCycles 0x0201 0x24 2 t) = true := by decide

/-- 95_test_vectors.md 2.9 #5: CLD. -/
theorem test_cld :
    after (start 0x0200 0x28 [0xD8])
      (fun t => pcFlagsCycles 0x0201 0x20 2 t) = true := by decide

/-- 95_test_vectors.md 2.9 #6: SED. -/
theorem test_sed :
    after (start 0x0200 0x20 [0xF8])
      (fun t => pcFlagsCycles 0x0201 0x28 2 t) = true := by decide

/-- 95_test_vectors.md 2.9 #7: CLV. -/
theorem test_clv :
    after (start 0x0200 0x60 [0xB8])
      (fun t => pcFlagsCycles 0x0201 0x20 2 t) = true := by decide

/-- 95_test_vectors.md 2.9 #8: NOP. -/
theorem test_nop :
    after (start 0x0200 0xE7 [0xEA] |>.setA 0x01 |>.setX 0x02 |>.setY 0x03)
      (fun t => pcFlagsCycles 0x0201 0xE7 2 t) = true := by decide

/-- 46_control.md R370: a JSR whose last byte lies where it pushes reads the byte it has just pushed: at 0x01FB with SP
0xFD its high operand byte is 0x01FD, where it pushes 0x01. -/
theorem test_jsr_reads_its_own_push :
    after (start 0x01FB 0x20 [0x20, 0x34, 0x12]) (fun t => t.pc == 0x0134 && t.sp == 0xFB) = true := by decide

/-! ### Undocumented values, events and the host's operations -/

/-- 95_test_vectors.md 2.10 #1: the run ends refused, with PC advanced, one read made and no cycle counted. -/
theorem test_undocumented_run :
    (match hostRun 1 (start 0x0200 0x20 [0x02, 0x10]) with
      | .refused r t => r == .undocumentedOpcode 0x02 0x0200 && t.pc == 0x0201 && t.cycles == 0 &&
          accesses t == [.read 0x0200 0x02] && t.refused == some (.undocumentedOpcode 0x02 0x0200)
      | .returned _ _ => false) = true := by decide

/-- Scenario E1: the reset sequence. -/
theorem test_reset_sequence :
    after (hostReset (start 0x1234 0x28 []) |>.setA 0x11 |>.poke 0xFFFD 0x80)
      (fun t => pcFlagsCycles 0x8000 0x2C 7 t && t.sp == 0xFD && t.a == 0x11 &&
        accesses t == [.read 0xFFFC 0x00, .read 0xFFFD 0x80]) = true := by decide

/-- Scenario E3: the NMI service, its accesses in order. -/
theorem test_nmi_service :
    after (hostNmi (start 0x0200 0x20 []) |>.poke 0xFFFB 0xA0)
      (fun t => pcFlagsCycles 0xA000 0x24 7 t && t.sp == 0xFA && !t.nmiPending &&
        accesses t == [.write 0x01FD 0x02, .write 0x01FC 0x00, .write 0x01FB 0x20, .read 0xFFFA 0x00,
          .read 0xFFFB 0xA0]) = true := by decide

/-- Scenario E5: the IRQ service, the line still up after it. -/
theorem test_irq_service :
    after (hostIrq true (start 0x0200 0x20 []) |>.poke 0xFFFF 0x90)
      (fun t => pcFlagsCycles 0x9000 0x24 7 t && t.irqLine && t.peek 0x01FB == 0x20) = true := by decide

/-- Scenario E6: an IRQ masked by I is deferred, the NOP runs. -/
theorem test_irq_masked :
    after (hostIrq true (start 0x0200 0x24 [0xEA])) (fun t => pcFlagsCycles 0x0201 0x24 2 t && t.irqLine) = true := by
  decide

/-- Scenario E8: reset before NMI before IRQ. -/
theorem test_priority :
    boundaryEvent (hostReset (hostNmi (hostIrq true (start 0x0200 0x20 [])))) = .reset ∧
    boundaryEvent (hostNmi (hostIrq true (start 0x0200 0x20 []))) = .nmi ∧
    boundaryEvent (hostIrq true (start 0x0200 0x20 [])) = .irq := by decide

/-- Scenario E11: the budget is a floor. -/
theorem test_budget :
    (match hostRun 5 (start 0x0203 0x22 [0xEA, 0xEA, 0xEA]) with
      | .returned r t => r == 6 && t.pc == 0x0206 && t.cycles == 6
      | .refused _ _ => false) = true := by decide

/-- Scenario E10: a run without power. -/
theorem test_power_off :
    (match hostRun 100 (hostReset (hostPower false (start 0x0200 0x20 []))) with
      | .returned r t => r == 0 && t == hostReset (hostPower false (start 0x0200 0x20 []))
      | .refused _ _ => false) = true := by decide

/-- A state whose page 0xD0 is a device with the answers given. -/
def device (code : List Byte) (answers : List Answer) : State :=
  { start 0x0200 0x20 code with devices := [⟨0xD000, 0xD0FF⟩], answers := answers }

/-- 60_exceptions.md R455: a device that calls `nmi` while it is read changes the latch at once, the step goes on, and the
next boundary serves it; its answer and not RAM is what is read (20_memory.md R71). -/
theorem test_device_answer_and_call :
    after (device [0xAD, 0x00, 0xD0] [⟨0x80, [.nmi]⟩])
      (fun t => t.a == 0x80 && t.nmiPending && boundaryEvent t == .nmi && t.answers == []) = true := by decide

/-- 70_reset_and_hazards.md R497: a device that calls `reset` ends the step refused. -/
theorem test_device_reentrant_call :
    refusedWith (step (device [0xAD, 0x00, 0xD0] [⟨0x80, [.reset]⟩])) (.reentrantHostCall .reset) = true := by decide

/-- A write keeps the canonical form: writing what an unlisted address reads as takes the cell out. -/
theorem test_memory_canonical :
    ((State.reset.poke 0x0010 0x42).poke 0x0005 0x01).mem = [(0x0005, 0x01), (0x0010, 0x42)] ∧
    ((State.reset.poke 0x0010 0x42).poke 0x0010 0x00).mem = [] := by decide

/-- `withFetchWord` places the word and the next step runs it: LDA #$80, and the undocumented 0x02. -/
theorem test_withFetchWord :
    after (State.reset.withFetchWord 16 0x80A9) (fun t => t.a == 0x80 && t.pc == 0x0002 && t.cycles == 9) = true ∧
    refusedWith (step (State.reset.withFetchWord 8 0x02)) (.undocumentedOpcode 0x02 0x0000) = true := by decide

/-! ### Witnesses: for each statement with hypotheses, a state and operands that meet them -/

theorem witness_DecodeOfEncode :
    (Instr.lda (.imm 0xFF)).WellFormed ∧ (Instr.sta (.abs 0xFFFF)).WellFormed ∧ (Instr.jsr 0xFF).WellFormed ∧
      (Instr.undoc 0x02).WellFormed := by decide

theorem witness_EncodeOfDecode : decode [0x4C, 0xFF, 0xFF, 0xEA] = .ok (.jmp (.abs 0xFFFF), [0xEA]) := rfl

/-- The farthest targets forward and back, and the two just out of reach; a wrap past 0xFFFF. -/
theorem witness_BranchOffsetReachesTarget :
    branchEncodable 0x0200 0x0281 = true ∧ branchEncodable 0x0200 0x0182 = true ∧
    branchEncodable 0x0200 0x0282 = false ∧ branchEncodable 0x0200 0x0181 = false ∧
    branchEncodable 0xFFF0 0x0071 = true ∧ (start 0xFFF2 0x20 []).pc = 0xFFF0 + 2 := by decide

/-- One, two and three bytes, the last two across 0xFFFF. -/
theorem witness_PcAdvancesByLength :
    ([start 0x0200 0x20 [0xEA], start 0xFFFF 0x20 [0xA9, 0x01], start 0xFFFE 0x20 [0x8D, 0x00, 0x03]].all (fun s =>
      s.power && boundaryEvent s == .instruction && !isControl (fetchInstr s).instr && completes (step s))) = true ∧
    after (start 0xFFFF 0x20 [0xA9, 0x01]) (fun t => t.pc == 0x0001) = true := by decide

theorem witness_StepRunsDecodedInstruction :
    let s := start 0x0200 0x20 [0xBD, 0xFF, 0x12]
    s.devices = [] ∧ s.refused = none ∧ s.power = true ∧ boundaryEvent s = .instruction ∧
      decode [s.peek s.pc, s.peek (s.pc + 1), s.peek (s.pc + 2)] = .ok (.lda (.abx 0x12FF), []) :=
  ⟨rfl, rfl, rfl, rfl, rfl⟩

theorem witness_UndocumentedOpcodeRefused :
    let s := start 0x0200 0x20 [0xFF]
    s.devices = [] ∧ s.refused = none ∧ s.power = true ∧ boundaryEvent s = .instruction ∧
      s.peek s.pc ∈ undocumentedOpcodes ∧ 0 < 1 ∧ Config.fits 1 = true := by decide

theorem witness_RefusedStateHasNoStep :
    (State.reset.refuse (.undocumentedOpcode 0x02 0x0200)).refused = some (.undocumentedOpcode 0x02 0x0200) := by decide

/-- The address written and another one. -/
theorem witness_PlainRamReadsLastWrite :
    State.reset.devices = [] ∧ (busRead 0xFFFF (busWrite 0xFFFF 0x42 State.reset)).1 = 0x42 ∧
      (busRead 0x0000 (busWrite 0xFFFF 0x42 State.reset)).1 = 0x00 := by decide

theorem witness_CanonicalMemoriesAgree :
    let m : Memory := [(0x0000, 0x01), (0xFFFF, 0x42)]
    m.wf = true ∧ ((Memory.write [(0x0000, 0x01)] 0xFFFF 0x42).wf = true) ∧
      Memory.write [(0x0000, 0x01)] 0xFFFF 0x42 = m := by decide

theorem witness_WordReadIsLittleEndian :
    (State.reset.poke 0xFFFF 0x34 |>.poke 0x0000 0x12).devices = [] ∧
      (busRead16 0xFFFF (State.reset.poke 0xFFFF 0x34 |>.poke 0x0000 0x12)).1 = 0x1234 := by decide

/-- The wraps of the three pointers (41_addressing_modes.md R180, R181, R182), and a page crossing of the last sum. -/
theorem witness_PointerModesWrap :
    let s := start 0x0200 0x20 [] |>.setX 0x01 |>.setY 0x02 |>.poke 0x00FF 0xFF |>.poke 0x0000 0x12 |>.poke 0x12FF 0x34
      |>.poke 0x1200 0x56 |>.poke 0x1300 0x99
    s.devices = [] ∧ (resolve (.izx 0xFE) s).loc = .mem 0x12FF ∧
      (resolve (.izy 0xFF) s).loc = .mem 0x1301 ∧ (resolve (.izy 0xFF) s).cross = true ∧
      (resolve (.ind 0x12FF) s).loc = .mem 0x5634 := by decide

/-- A device everywhere, whose six answers each call `nmi` and `irq`. -/
theorem witness_DeviceAnswersLetInstructionsComplete :
    let s := { State.reset with devices := [⟨0x0000, 0xFFFF⟩], answers := List.replicate 6 ⟨0xFF, [.nmi, .irq true]⟩ }
    (Instr.brk).WellFormed ∧ s.refused = none ∧ Config.fits (s.cycles + 7) = true ∧ 6 ≤ s.answers.length ∧
      (∀ ans ∈ s.answers, ∀ c ∈ ans.calls, allowedInAccess c = true) ∧ completes (exec .brk s) = true := by decide

/-- A state ready for any step; the well-formed forms of the read-class statements. -/
theorem witness_LoadsComplete :
    State.reset.Ready ∧ (Instr.lda (.izy 0xFF)).WellFormed ∧ (Instr.ldx (.zpy 0xFF)).WellFormed ∧
      (Instr.ldy (.abx 0xFFFF)).WellFormed ∧ pageCross (.abx 0x12FF) (State.reset.setX 0x01) = true ∧
      pageCross (.abx 0x12FF) State.reset = false := by decide

theorem witness_StoresComplete :
    State.reset.Ready ∧ effectiveAddress (.zpy 0xFF) (State.reset.setY 0x01) = some 0x0000 ∧
      effectiveAddress (.abs 0xFFFF) State.reset = some 0xFFFF ∧ (Instr.sta (.abs 0xFFFF)).WellFormed ∧
      (Instr.stx (.zpy 0xFF)).WellFormed ∧ (Instr.sty (.abs 0xFFFF)).WellFormed := by decide

theorem witness_RegisterInstructionsComplete : (State.reset.setX 0xFF).Ready := by decide

theorem witness_FlagInstructionsComplete : State.reset.Ready := by decide

/-- Both ends of the stack page. -/
theorem witness_StackInstructionsComplete : (State.reset.setSp 0x00).Ready ∧ (State.reset.setSp 0xFF).Ready := by decide

/-- Binary and decimal. -/
theorem witness_AddSubtractComplete :
    State.reset.Ready ∧ (State.reset.withD true).Ready ∧ (Instr.adc (.imm 0x99)).WellFormed ∧
      (Instr.sbc (.izx 0xFF)).WellFormed := by decide

/-- 99 and 00 are the ends of valid BCD. -/
theorem witness_DecimalAddition :
    ((0x99 : Byte).toNat / 16 ≤ 9 ∧ (0x99 : Byte).toNat % 16 ≤ 9) ∧
      (decimalAdd 0x99 0x01 State.reset.flags).1 = 0x00 ∧ (decimalAdd 0x99 0x01 State.reset.flags).2.c = true := by decide

theorem witness_DecimalSubtraction :
    ((0x99 : Byte).toNat / 16 ≤ 9 ∧ (0x99 : Byte).toNat % 16 ≤ 9) ∧ decimalSub 0x00 0x01 true = 0x99 := by decide

/-- One instruction of each shape completes with either D. -/
theorem witness_DecimalFlagSelectsOnlyAddSubtract :
    ([Instr.lda (.imm 0x01), .sta (.abs 0xFFFF), .inc (.zp 0x00), .bne 0x80, .jmp (.ind 0xFFFF), .jsr 0x00, .pha,
      .rts].all (fun i => completes (exec i State.reset) && completes (exec i (State.reset.withD true)))) = true := by
  decide

theorem witness_LogicComplete :
    State.reset.Ready ∧ (Instr.and (.imm 0x0F)).WellFormed ∧ (Instr.ora (.zpx 0xFF)).WellFormed ∧
      (Instr.eor (.aby 0xFFFF)).WellFormed := by decide

theorem witness_ComparesComplete :
    State.reset.Ready ∧ (Instr.cmp (.imm 0xFF)).WellFormed ∧ (Instr.cpx (.zp 0x00)).WellFormed ∧
      (Instr.cpy (.abs 0xFFFF)).WellFormed ∧ (Instr.bit (.zp 0xFF)).WellFormed := by decide

theorem witness_MemoryStepsComplete :
    State.reset.Ready ∧ effectiveAddress (.abx 0xFFFF) (State.reset.setX 0x01) = some 0x0000 ∧
      (Instr.inc (.abx 0xFFFF)).WellFormed ∧ (Instr.dec (.zpx 0xFF)).WellFormed := by decide

theorem witness_AccumulatorShiftsComplete : (State.reset.setA 0x80).Ready := by decide

theorem witness_MemoryShiftsComplete :
    State.reset.Ready ∧ effectiveAddress (.zp 0xFF) State.reset = some 0x00FF ∧ (Instr.asl (.zp 0xFF)).WellFormed ∧
      (Instr.lsr (.zp 0xFF)).WellFormed ∧ (Instr.rol (.zp 0xFF)).WellFormed ∧ (Instr.ror (.zp 0xFF)).WellFormed := by
  decide

/-- Taken within the page, taken to another page, and not taken. -/
theorem witness_BranchesComplete :
    (start 0x0202 0x20 []).Ready ∧ holds (exec (.bpl 0x7F) (start 0x0202 0x20 [])) (fun t => t.cycles == 3) = true ∧
      holds (exec (.bpl 0x80) (start 0x0202 0x20 [])) (fun t => t.cycles == 4) = true ∧
      holds (exec (.bmi 0x80) (start 0x0202 0x20 [])) (fun t => t.cycles == 2) = true := by decide

theorem witness_JumpCompletes : State.reset.Ready := by decide

/-- The pushes wrap within the stack page. -/
theorem witness_SubroutineInstructionsComplete : (State.reset.setSp 0x00).Ready ∧ (State.reset.setSp 0xFE).Ready := by
  decide

theorem witness_BreakCompletes : (State.reset.setSp 0x01).Ready := by decide

theorem witness_ReturnFromInterruptCompletes : (State.reset.setSp 0xFF).Ready := by decide

theorem witness_ResetSequenceStep :
    let s := hostReset State.reset
    s.Ready ∧ s.power = true ∧ s.resetPending = true := by decide

/-- NMI with the IRQ up too, IRQ alone, the line masked, and the line down. -/
theorem witness_InterruptServiceSteps :
    let s := start 0x0200 0x20 [0xEA]
    s.Ready ∧ s.power = true ∧ s.resetPending = false ∧ (hostNmi (hostIrq true s)).nmiPending = true ∧
      (hostNmi (hostIrq true s)).Ready ∧ (hostIrq true s).Ready ∧ (hostIrq true s).irqLine = true ∧
      s.flags.i = false ∧ s.nmiPending = false ∧ s.irqLine = false ∧ (hostIrq true (s.setI true)).flags.i = true := by
  decide

/-- The state right after the service is one such return state. -/
theorem witness_ReturnUndoesService :
    let s := start 0x0234 0xE3 []
    s.devices = [] ∧ (service irqVector false s).Ready ∧
      holds (exec .rti (service irqVector false s)) (fun t => t.pc == 0x0234 && t.flags.pack == 0xE3) = true := by decide

theorem witness_ReturnFollowsCall :
    let s := start 0x02FF 0x20 [0x12] |>.setSp 0x00
    s.devices = [] ∧ holds (exec (.jsr 0x34) s) (fun t =>
      decide t.Ready && holds (exec .rts t) (fun w => w.pc == 0x0300 && w.sp == 0x00)) = true := by decide

theorem witness_ClearedMaskServesIrqNext :
    let s := hostIrq true (start 0x0200 0x24 [0x58, 0xEA])
    s.devices = [] ∧ s.refused = none ∧ Config.fits (s.cycles + 9) = true ∧ s.power = true ∧ s.resetPending = false ∧
      s.nmiPending = false ∧ s.irqLine = true ∧ s.flags.i = true ∧ s.peek s.pc = 0x58 := by decide

theorem witness_RunWithoutPowerDoesNothing : State.initial.refused = none ∧ State.initial.power = false := by decide

/-- A run that returns its budget, and one that returns six more. -/
theorem witness_RunReturnsBudgetOrSixMore :
    State.reset.power = true ∧
    (match hostRun 2 (start 0x0200 0x20 [0xEA]) with | .returned r t => r == 2 && t.cycles == 2 | .refused _ _ => false) =
      true ∧
    (match hostRun 1 (start 0x0200 0x20 [0x00]) with | .returned r t => r == 7 && t.cycles == 7 | .refused _ _ => false) =
      true := by decide

theorem witness_RunOneIsOneStep :
    State.reset.refused = none ∧ State.reset.power = true ∧ completes (step { State.reset with cycles := 0 }) = true := by
  decide

theorem witness_HostOperationsWriteTheirField : State.reset.power = true := by decide

theorem witness_StepKeepsInvariant : State.reset.Inv ∧ completes (step State.reset) = true := by decide

/-- A powered state for each of the four things a boundary finds to do, each with its step. -/
def fourEvents : List State :=
  [start 0x0200 0x20 [0xEA], hostIrq true (start 0x0200 0x20 []), hostNmi (start 0x0200 0x20 []),
    hostReset (start 0x0200 0x20 [])]

theorem witness_StepCostsTwoToSeven : fourEvents.all (fun s => s.power && completes (step s)) = true := by decide

theorem witness_LatchesChangeByTheirServiceOnly :
    fourEvents.all (fun s => s.power && completes (step s) && s.devices == []) = true ∧
      fourEvents.map boundaryEvent = [.instruction, .irq, .nmi, .reset] := by decide

theorem witness_StepAppendsAccesses : fourEvents.all (fun s => completes (step s)) = true := by decide

theorem witness_FlagsChangeOnlyByTheirWriters :
    fourEvents.all (fun s => s.power && completes (step s)) = true ∧
      (fourEvents.map (fun s => s.stepFlagsWritten.i)) = [false, true, true, true] := by decide

theorem witness_ReadInstructionsFrame :
    ([Instr.lda (.zp 0x10), .ldx (.zp 0x10), .ldy (.zp 0x10), .and (.zp 0x10), .ora (.zp 0x10), .eor (.zp 0x10),
      .adc (.zp 0x10), .sbc (.zp 0x10), .cmp (.zp 0x10), .cpx (.zp 0x10), .cpy (.zp 0x10), .bit (.zp 0x10)].all
      (fun i => completes (exec i State.reset))) = true := by decide

theorem witness_StoringInstructionsFrame :
    ([Instr.sta (.zp 0xFF), .stx (.zp 0xFF), .sty (.zp 0xFF), .inc (.zp 0xFF), .dec (.zp 0xFF), .asl .acc, .lsr (.zp 0xFF),
      .rol .acc, .ror (.zp 0xFF)].all (fun i => completes (exec i State.reset))) = true := by decide

theorem witness_ImpliedInstructionsFrame :
    ([Instr.tax, .tsx, .inx, .dex, .tay, .iny, .dey, .txa, .tya, .txs, .clc, .sec, .cli, .sei, .cld, .sed, .clv, .nop].all
      (fun i => completes (exec i State.reset))) = true := by decide

theorem witness_StackAndControlFrame :
    ([Instr.bpl 0x80, .bmi 0x80, .bvc 0x80, .bvs 0x80, .bcc 0x80, .bcs 0x80, .bne 0x80, .beq 0x80, .jmp (.abs 0xFFFF),
      .pha, .php, .pla, .plp, .rti, .jsr 0xFF, .rts, .brk].all (fun i => completes (exec i State.reset))) = true := by
  decide

end Sys2Proof.Tests
end

/-!
SUPPORT AND PROOFS of the family 10_state.md. What an instruction, and a step, leave alone, said once for every adapter:
`Kept` says which flags may change and that PC stays, beside `Grown` of the laws, which speaks of the control state;
`exec_ends` and `step_ends` establish it. Then that no operation but decimal arithmetic looks at D (`exec_withD`).
-/

namespace Sys2Proof.Machine

open Sys2Proof

/-! ### What a part of a step keeps -/

/-- Each flag of `g` that `w` does not allow to be written is the one of `f`. -/
def FlagsKept (w f g : Flags) : Prop :=
  (w.n = false → g.n = f.n) ∧ (w.v = false → g.v = f.v) ∧ (w.d = false → g.d = f.d) ∧
    (w.i = false → g.i = f.i) ∧ (w.z = false → g.z = f.z) ∧ (w.c = false → g.c = f.c)

theorem FlagsKept.refl (w f : Flags) : FlagsKept w f f := by simp [FlagsKept]

theorem FlagsKept.trans {w f g k : Flags} (h₁ : FlagsKept w f g) (h₂ : FlagsKept w g k) : FlagsKept w f k := by
  simp_all [FlagsKept]

theorem flagsKept_setNZ (f : Flags) (v : Byte) : FlagsKept ⟨true, false, false, false, true, false⟩ f (f.setNZ v) := by
  simp [FlagsKept]

/-- What a part of a step keeps, its cost not yet counted: the control state as `Grown` says, the flags that `w` does
not allow to be written, and PC unless the part is one of control. -/
structure Kept (w : Flags) (control : Bool) (s t : State) : Prop where
  grown : ∃ n, Grown n s t
  flags : FlagsKept w s.flags t.flags
  pc : control = false → t.pc = s.pc

section
variable {w : Flags} {control : Bool} {s t u : State} {n : Nat}

theorem Kept.trans (h₁ : Kept w control s t) (h₂ : Kept w control t u) : Kept w control s u := by
  obtain ⟨_, g₁⟩ := h₁.grown
  obtain ⟨_, g₂⟩ := h₂.grown
  exact ⟨⟨_, g₁.trans g₂⟩, h₁.flags.trans h₂.flags, fun h => (h₂.pc h).trans (h₁.pc h)⟩

/-- A part that writes no flag and not PC. -/
theorem Grown.kept (g : Grown n s t) (hf : t.flags = s.flags) (hp : t.pc = s.pc) : Kept w control s t :=
  ⟨⟨n, g⟩, hf ▸ FlagsKept.refl w s.flags, fun _ => hp⟩

/-- A part of a control instruction, whatever it does to PC. -/
theorem Grown.kept_control (g : Grown n s t) (hf : FlagsKept w s.flags t.flags) : Kept w true s t :=
  ⟨⟨n, g⟩, hf, nofun⟩

/-- Writes of registers and of allowed flags. -/
theorem kept_registers (s : State) (sp a x y : Byte) {f : Flags} (hf : FlagsKept w s.flags f) :
    Kept w control s { s with sp := sp, a := a, x := x, y := y, flags := f } :=
  ⟨⟨0, grown_registers s _ _ _ _ _ _⟩, hf, fun _ => rfl⟩

/-! ### What an outcome keeps -/

/-- A next state, if the outcome is one, is the end of a step on a state that keeps what `Kept` says of `s`. -/
def Ends (w : Flags) (control : Bool) (s : State) (r : Result) : Prop :=
  ∀ t, r = .next t → ∃ (u : State) (c : Nat), Kept w control s u ∧ finish c u = .next t

theorem ends_finish {c : Nat} (hk : Kept w control s u) : Ends w control s (finish c u) :=
  fun _ h => ⟨u, c, hk, h⟩

theorem ends_refused {r : Refusal} : Ends w control s (.refused r) :=
  fun _ h => nomatch h

theorem ends_formed {i : Instr} {r : Result} (h : Ends w control s r) : Ends w control s (formed i r) :=
  fun t ht => h t (formed_next.1 ht).2

theorem ends_readClass {o : Operand} {use : Byte → State → State} (hu : ∀ m u, Kept w control u (use m u)) :
    Ends w control s (readClass o use s) :=
  ends_finish ((((grown_resolve o s).trans (grown_loadLoc _ _)).kept (by simp) (by simp)).trans (hu _ _))

theorem ends_writeClass {o : Operand} {v : Byte} : Ends w control s (writeClass o v s) :=
  ends_finish (((grown_resolve o s).trans (grown_storeLoc _ _ _)).kept (by simp) (by simp))

theorem ends_modifyClass {o : Operand} {f : Byte → Flags → Byte × Flags} (hf : ∀ m g, FlagsKept w g (f m g).2) :
    Ends w control s (modifyClass o f s) := by
  have hl := (grown_resolve o s).trans (grown_loadLoc (resolve o s).loc _)
  refine ends_finish ((hl.kept (by simp) (by simp)).trans (Kept.trans ?_ (kept_registers _ _ _ _ _ ?_)))
  · exact (grown_storeLoc _ _ _).kept (by simp) (by simp)
  · simpa using hf _ _

theorem ends_branch {cond : Bool} {off : Byte} : Ends w true s (branch cond off s) := by
  have hr := grown_resolve (.rel off) s
  unfold branch
  split
  · exact ends_finish ((hr.trans (grown_jumpTo _ _)).kept_control (by simp [FlagsKept]))
  · exact ends_finish (hr.kept_control (by simp [FlagsKept]))

end

theorem grown_returnFromService (s : State) : Grown 3 s (returnFromService s) :=
  ((grown_pull s).trans (grown_setFlags _ _)).trans
    (((grown_pull _).trans (grown_pull _)).trans (grown_setPc _ _))

/-- The reset sequence, after it has consumed its latch (70_reset_and_hazards.md R494). -/
theorem grown_resetSequence (s : State) : Grown 2 { s with resetPending := false } (resetSequence s) :=
  ((grown_setSp _ _).trans (grown_setI _ _)).trans ((grown_busRead16 _ _).trans (grown_setPc _ _))

/-- An instruction writes no flag but its own, and PC only if it is one of control (the flag lines of the instruction
rules; 10_state.md R36, R39 to R44). -/
theorem exec_ends (i : Instr) (s : State) : Ends (flagsWritten i) (isControl i) s (exec i s) := by
  cases i
  case lda o | ldx o | ldy o | and o | ora o | eor o =>
    exact ends_formed (ends_readClass fun _ u => kept_registers u _ _ _ _ (flagsKept_setNZ _ _))
  case adc o | sbc o | cmp o | cpx o | cpy o | bit o =>
    exact ends_formed (ends_readClass fun _ u => kept_registers u _ _ _ _ (by simp [FlagsKept, flagsWritten]))
  case sta o | stx o | sty o => exact ends_formed ends_writeClass
  case inc o | dec o => exact ends_formed (ends_modifyClass fun _ _ => flagsKept_setNZ _ _)
  case asl o | lsr o | rol o | ror o =>
    exact ends_formed (ends_modifyClass fun _ _ => by simp [FlagsKept, flagsWritten])
  case tax | tay | txa | tya | tsx | inx | iny | dex | dey =>
    exact ends_finish (kept_registers s _ _ _ _ (flagsKept_setNZ _ _))
  case txs | nop => exact ends_finish (kept_registers s _ _ _ _ (FlagsKept.refl _ _))
  case clc | sec | cli | sei | cld | sed | clv =>
    exact ends_finish (kept_registers s _ _ _ _ (by simp [FlagsKept, flagsWritten]))
  case pha | php => exact ends_finish ((grown_push _ s).kept (by simp) (by simp))
  case pla =>
    exact ends_finish (((grown_pull s).kept (by simp) (by simp)).trans
      (kept_registers _ _ _ _ _ (flagsKept_setNZ _ _)))
  case plp =>
    exact ends_finish (((grown_pull s).kept (by simp) (by simp)).trans
      (kept_registers _ _ _ _ _ (by simp [FlagsKept, flagsWritten])))
  case bcc | bcs | beq | bmi | bne | bpl | bvc | bvs => exact ends_branch
  case jmp o =>
    exact ends_formed (ends_finish
      (((grown_resolve o s).trans (grown_jumpTo _ _)).kept_control (by simp [FlagsKept])))
  case jsr lo =>
    exact ends_finish ((((grown_push _ s).trans (grown_push _ _)).trans
      ((grown_busRead _ _).trans (grown_setPc _ _))).kept_control (by simp [FlagsKept]))
  case rts =>
    exact ends_finish ((((grown_pull s).trans (grown_pull _)).trans (grown_setPc _ _)).kept_control
      (by simp [FlagsKept]))
  case brk =>
    exact ends_finish (((grown_setPc s _).trans (grown_service _ _ _)).kept_control
      (by simp [FlagsKept, flagsWritten]))
  case rti => exact ends_finish ((grown_returnFromService s).kept_control (by simp [FlagsKept, flagsWritten]))
  case undoc op => exact ends_refused

/-! ### The step -/

/-- The state with the latch of the event that its step serves consumed (60_exceptions.md R445;
70_reset_and_hazards.md R494). -/
def State.latchTaken (s : State) : State :=
  match boundaryEvent s with
  | .reset => { s with resetPending := false }
  | .nmi => { s with nmiPending := false }
  | .irq => s
  | .instruction => s

@[simp] theorem State.latchTaken_flags (s : State) : s.latchTaken.flags = s.flags := by
  unfold State.latchTaken; split <;> rfl
@[simp] theorem State.latchTaken_power (s : State) : s.latchTaken.power = s.power := by
  unfold State.latchTaken; split <;> rfl
@[simp] theorem State.latchTaken_irqLine (s : State) : s.latchTaken.irqLine = s.irqLine := by
  unfold State.latchTaken; split <;> rfl
@[simp] theorem State.latchTaken_devices (s : State) : s.latchTaken.devices = s.devices := by
  unfold State.latchTaken; split <;> rfl
theorem State.latchTaken_resetPending (s : State) :
    s.latchTaken.resetPending = (s.resetPending && !decide (boundaryEvent s = .reset)) := by
  unfold State.latchTaken; split <;> simp_all
theorem State.latchTaken_nmiPending (s : State) :
    s.latchTaken.nmiPending = (s.nmiPending && !decide (boundaryEvent s = .nmi)) := by
  unfold State.latchTaken; split <;> simp_all

/-- A step that runs an instruction is its execution on the fetched state (40_execution_loop.md R134). -/
theorem exec_of_step_next {s t : State} (hp : s.power = true) (he : boundaryEvent s = .instruction)
    (h : step s = .next t) : exec (fetchInstr s).instr (fetchInstr s).state = .next t := by
  rw [step_powered (refused_of_step_next h) hp, poweredStep, he] at h
  dsimp only [instructionStep] at h
  split at h
  · cases h
  · exact h

/-- Every step of a powered core keeps what `Kept` says of the state with its latch consumed. -/
theorem step_ends {s : State} (hp : s.power = true) : Ends s.stepFlagsWritten true s.latchTaken (step s) := by
  intro t h
  have hs := h
  rw [step_powered (refused_of_step_next h) hp, poweredStep] at hs
  cases he : boundaryEvent s <;> simp only [he, State.stepFlagsWritten, State.latchTaken] at hs ⊢
  case reset => exact ⟨_, _, (grown_resetSequence s).kept_control (by simp [FlagsKept]), hs⟩
  case nmi => exact ⟨_, _, (grown_service _ _ _).kept_control (by simp [FlagsKept]), hs⟩
  case irq => exact ⟨_, _, (grown_service _ _ _).kept_control (by simp [FlagsKept]), hs⟩
  case instruction =>
    obtain ⟨u, c, ⟨⟨n, hg⟩, hf, -⟩, hu⟩ := exec_ends _ _ t (exec_of_step_next hp he h)
    exact ⟨u, c, ((grown_fetchInstr s).trans hg).kept_control (by simpa using hf), hu⟩

/-! ### The length of the instruction fetched -/

/-- BRK and JSR alone have bytes that no fetch reads (46_control.md R370, R372). -/
theorem length_of_not_control {i : Instr} (h : isControl i = false) : i.length = 1 + i.operandBytes.length := by
  cases i
  case brk => cases h
  case jsr => cases h
  all_goals rfl

theorem fetchInstr_pc (s : State) :
    (fetchInstr s).state.pc = s.pc + BitVec.ofNat 16 (1 + (fetchInstr s).instr.operandBytes.length) := by
  have hlen : (fetchInstr s).instr.operandBytes.length = operandCount (fetchByte s).1 := by
    have hle := operandCount_le (fetchByte s).1
    simp only [fetchInstr, (ofBytes_spec _ _ _).2.2, List.length_take, List.length_cons, List.length_nil]
    omega
  rw [hlen, BitVec.ofNat_add, ← BitVec.add_assoc]
  simp [fetchInstr]

/-! ### The decimal flag -/

/-- An outcome with its next state, if it is one, changed. -/
def mapNext (g : State → State) : Result → Result
  | .next t => .next (g t)
  | .fault r => .fault r
  | .refused r => .refused r

section
variable (b : Bool) (s : State)

@[simp] theorem State.withD_pc : (s.withD b).pc = s.pc := rfl
@[simp] theorem State.withD_sp : (s.withD b).sp = s.sp := rfl
@[simp] theorem State.withD_x : (s.withD b).x = s.x := rfl
@[simp] theorem State.withD_y : (s.withD b).y = s.y := rfl

theorem State.refuse_withD (r : Refusal) : (s.withD b).refuse r = (s.refuse r).withD b := by
  unfold State.refuse
  rw [show (s.withD b).refused = s.refused from rfl]
  split <;> rfl

theorem State.callback_withD (c : HostCall) : (s.withD b).callback c = (s.callback c).withD b := by
  cases c
  case nmi => rfl
  case irq => rfl
  all_goals exact State.refuse_withD b s _

theorem callbacks_withD (l : List HostCall) :
    l.foldl State.callback (s.withD b) = (l.foldl State.callback s).withD b := by
  induction l generalizing s with
  | nil => rfl
  | cons c l ih => simp only [List.foldl_cons, State.callback_withD, ih]

theorem State.takeAnswer_withD : (s.withD b).takeAnswer = s.takeAnswer.withD b :=
  callbacks_withD b { s with answers := s.answers.tail } s.nextAnswer.calls

@[simp] theorem busRead_withD (a : Addr) : busRead a (s.withD b) = ((busRead a s).1, (busRead a s).2.withD b) := by
  unfold busRead
  rw [show (s.withD b).isDevice a = s.isDevice a from rfl, State.takeAnswer_withD]
  split <;> rfl

@[simp] theorem busWrite_withD (a : Addr) (v : Byte) : busWrite a v (s.withD b) = (busWrite a v s).withD b := by
  unfold busWrite
  rw [show (s.withD b).isDevice a = s.isDevice a from rfl, State.takeAnswer_withD]
  split <;> rfl

theorem push_withD (v : Byte) : push v (s.withD b) = (push v s).withD b := by
  simp only [push, State.withD_sp, busWrite_withD]
  rfl

theorem pull_withD : pull (s.withD b) = ((pull s).1, (pull s).2.withD b) :=
  busRead_withD b (s.setSp (s.sp + 1)) (stackAddr (s.sp + 1))

/-- The resolver does not look at D. -/
theorem resolve_withD (o : Operand) :
    resolve o (s.withD b) = { resolve o s with state := (resolve o s).state.withD b } := by
  cases o
  case ind => simp [resolve, indirectPointer]
  case izx => simp [resolve, zeroPagePointer]
  case izy => simp [resolve, zeroPagePointer, indexed]
  all_goals rfl

theorem loadLoc_withD (l : Loc) : loadLoc l (s.withD b) = ((loadLoc l s).1, (loadLoc l s).2.withD b) := by
  cases l
  case mem a => exact busRead_withD b s a
  all_goals rfl

theorem storeLoc_withD (l : Loc) (v : Byte) : storeLoc l v (s.withD b) = (storeLoc l v s).withD b := by
  cases l
  case mem a => exact busWrite_withD b s a v
  all_goals rfl

theorem jumpTo_withD (l : Loc) : jumpTo l (s.withD b) = (jumpTo l s).withD b := by
  cases l <;> rfl

theorem finish_withD (c : Nat) : finish c (s.withD b) = mapNext (State.withD · b) (finish c s) := by
  unfold finish
  rw [show (s.withD b).refused = s.refused from rfl, show (s.withD b).cycles = s.cycles from rfl]
  cases s.refused with
  | some r => rfl
  | none => dsimp only; split <;> rfl

theorem finish_of_withD {u v : State} (c : Nat) (h : v = u.withD b) :
    finish c v = mapNext (State.withD · b) (finish c u) :=
  h ▸ finish_withD b u c

theorem formed_mapNext (g : State → State) (i : Instr) (r : Result) :
    formed i (mapNext g r) = mapNext g (formed i r) := by
  unfold formed; split <;> rfl

theorem readClass_withD {o : Operand} {use : Byte → State → State}
    (hu : ∀ m u, use m (State.withD u b) = (use m u).withD b) :
    readClass o use (s.withD b) = mapNext (State.withD · b) (readClass o use s) := by
  simp only [readClass, resolve_withD, loadLoc_withD, hu, finish_withD]

theorem writeClass_withD (o : Operand) (v : Byte) :
    writeClass o v (s.withD b) = mapNext (State.withD · b) (writeClass o v s) := by
  simp only [writeClass, resolve_withD, storeLoc_withD, finish_withD]

theorem modifyClass_withD {o : Operand} {f : Byte → Flags → Byte × Flags}
    (hf : ∀ m (g : Flags), f m { g with d := b } = ((f m g).1, { (f m g).2 with d := b })) :
    modifyClass o f (s.withD b) = mapNext (State.withD · b) (modifyClass o f s) := by
  simp only [modifyClass, resolve_withD, loadLoc_withD, storeLoc_withD, ← finish_withD]
  simp only [State.withD, State.setFlags_flags, hf, storeLoc_flags]
  rfl

theorem branch_withD (cond : Bool) (off : Byte) :
    branch cond off (s.withD b) = mapNext (State.withD · b) (branch cond off s) := by
  simp only [branch, resolve_withD, jumpTo_withD, finish_withD]
  split <;> rfl

end

/-- D selects nothing but the arithmetic of ADC and SBC: the other instructions that neither push D nor write it have,
with D set otherwise, the same outcome but for D (10_state.md R41, 44_arith_logic.md R290). -/
theorem exec_withD {i : Instr} (s : State) (b : Bool) (hadc : ∀ o, i ≠ .adc o) (hsbc : ∀ o, i ≠ .sbc o)
    (hphp : i ≠ .php) (hbrk : i ≠ .brk) (hplp : i ≠ .plp) (hrti : i ≠ .rti) (hcld : i ≠ .cld) (hsed : i ≠ .sed) :
    exec i (s.withD b) = mapNext (State.withD · b) (exec i s) := by
  cases i
  case adc o => exact absurd rfl (hadc o)
  case sbc o => exact absurd rfl (hsbc o)
  case php | brk | plp | rti | cld | sed => contradiction
  case lda o | ldx o | ldy o | and o | ora o | eor o | cmp o | cpx o | cpy o | bit o =>
    exact (congrArg _ (readClass_withD b s fun _ _ => rfl)).trans (formed_mapNext _ _ _)
  case sta o | stx o | sty o => exact (congrArg _ (writeClass_withD b s o _)).trans (formed_mapNext _ _ _)
  case inc o | dec o | asl o | lsr o | rol o | ror o =>
    exact (congrArg _ (modifyClass_withD b s fun _ _ => rfl)).trans (formed_mapNext _ _ _)
  case tax | tay | txa | tya | tsx | txs | inx | iny | dex | dey | clc | sec | cli | sei | clv | nop =>
    exact finish_of_withD b 2 rfl
  case pha => exact finish_of_withD b 3 (push_withD b s s.a)
  case pla =>
    simp only [exec, execPla, pull_withD]
    exact finish_of_withD b 4 rfl
  case bcc off | bcs off | beq off | bmi off | bne off | bpl off | bvc off | bvs off => exact branch_withD b s _ off
  case jmp o =>
    simp only [exec, execJmp, resolve_withD, jumpTo_withD, finish_withD, formed_mapNext]
  case jsr lo =>
    simp only [exec, execJsr, State.withD_pc, push_withD, busRead_withD]
    exact finish_of_withD b 6 rfl
  case rts =>
    simp only [exec, execRts, pull_withD]
    exact finish_of_withD b 6 rfl
  case undoc op => rfl

/-! ### The statements -/

/-- Settles O6: the fetch leaves PC past the instruction's bytes, and no other part of the step moves it. -/
theorem pcAdvancesByLength : Obligations.PcAdvancesByLength := by
  intro s t hp he hi h
  obtain ⟨u, c, hk, hu⟩ := exec_ends _ _ t (exec_of_step_next hp he h)
  obtain ⟨-, -, rfl⟩ := finish_next.1 hu
  exact (hk.pc hi).trans (by rw [fetchInstr_pc, length_of_not_control hi])

/-- Settles O30: every operation that such an instruction is made of commutes with setting D. -/
theorem decimalFlagSelectsOnlyAddSubtract : Obligations.DecimalFlagSelectsOnlyAddSubtract := by
  intro i s t b hadc hsbc hphp hbrk hplp hrti hcld hsed h
  rw [exec_withD s b hadc hsbc hphp hbrk hplp hrti hcld hsed, h]
  rfl

/-- Settles O54: a step grows from the state with the served latch consumed. -/
theorem latchesChangeByTheirServiceOnly : Obligations.LatchesChangeByTheirServiceOnly := by
  intro s t hp h
  obtain ⟨u, c, ⟨⟨n, hg⟩, -, -⟩, hu⟩ := step_ends hp t h
  obtain ⟨-, -, rfl⟩ := finish_next.1 hu
  refine ⟨by simpa using hg.power, hg.resetPending.trans s.latchTaken_resetPending, fun hd => ?_⟩
  obtain ⟨hnmi, hirq, -⟩ := hg.plain (by simpa using hd)
  exact ⟨by simpa using hirq, hnmi.trans s.latchTaken_nmiPending⟩

/-- Settles O56: the flag clause of what every step keeps. -/
theorem flagsChangeOnlyByTheirWriters : Obligations.FlagsChangeOnlyByTheirWriters := by
  intro s t hp h
  obtain ⟨u, c, hk, hu⟩ := step_ends hp t h
  obtain ⟨-, -, rfl⟩ := finish_next.1 hu
  have hf := hk.flags
  rw [State.latchTaken_flags] at hf
  exact hf

end Sys2Proof.Machine

/-!
SUPPORT AND PROOFS of the family 20_memory.md. The canonical memory is determined by what it reads as; the stack slot and
the word as numbers; and what a part of a step does to the bus, said once for every adapter: `Within` counts its accesses
against the answers that the devices have ready, and `exec_finishes` gives the count of every documented instruction.
-/

namespace Sys2Proof.Machine

open Sys2Proof

/-! ### The canonical memory -/

/-- The cell that a memory reads from. -/
theorem Memory.mem_of_read {m : Memory} {k : Nat} {v : Byte} (hr : m.read k = v) (hv : v ≠ Memory.unlisted) :
    (k, v) ∈ m := by
  induction m with
  | nil => exact absurd hr.symm hv
  | cons cell rest ih =>
    obtain ⟨j, w⟩ := cell
    by_cases hj : j = k
    · simp_all [Memory.read]
    · exact List.mem_cons_of_mem _ (ih (by simpa [Memory.read, hj] using hr))

/-- No cell hides behind another of its address when addresses strictly rise. -/
theorem Memory.read_of_mem {m : Memory} {k : Nat} {v : Byte} (hs : m.Pairwise (fun p q => p.1 < q.1))
    (h : (k, v) ∈ m) : m.read k = v := by
  induction m with
  | nil => cases h
  | cons cell rest ih =>
    obtain ⟨j, w⟩ := cell
    obtain ⟨hlt, hs⟩ := List.pairwise_cons.1 hs
    rcases List.mem_cons.1 h with he | h
    · simp_all [Memory.read]
    · have hj : j ≠ k := (hlt _ h).ne
      simpa [Memory.read, hj] using ih hs h

/-- The cells of a canonical memory are what it reads as, where that is no unlisted byte. -/
theorem Memory.mem_iff_read {m : Memory} (h : m.wf = true) (cell : Host.Cell) :
    cell ∈ m ↔ cell.1 < 65536 ∧ m.read cell.1 = cell.2 ∧ cell.2 ≠ Memory.unlisted := by
  obtain ⟨hs, hc⟩ := (Memory.wf_iff m).1 h
  exact ⟨fun hm => ⟨(hc _ hm).1, Memory.read_of_mem hs hm, (hc _ hm).2⟩,
    fun ⟨_, hr, hv⟩ => Memory.mem_of_read hr hv⟩

/-- Strictly rising lists with the same cells are equal. -/
theorem Memory.eq_of_mem_iff {m n : Memory} (hm : m.wf = true) (hn : n.wf = true) (h : ∀ cell, cell ∈ m ↔ cell ∈ n) :
    m = n := by
  have hirrefl : Std.Irrefl (fun p q : Host.Cell => p.1 < q.1) := ⟨fun p => lt_irrefl p.1⟩
  have hanti : Std.Antisymm (fun p q : Host.Cell => p.1 < q.1) := ⟨fun _ _ h h' => absurd h h'.asymm⟩
  exact ((Memory.wf_iff m).1 hm).1.eq_of_mem_iff ((Memory.wf_iff n).1 hn).1 h

/-! ### Answers that are ready -/

/-- The state is not refused, and the next `k` answers of its devices are ready and call nothing but `nmi` and `irq`
(20_memory.md R91). -/
structure State.Scripted (k : Nat) (s : State) : Prop where
  refused : s.refused = none
  enough : k ≤ s.answers.length
  allowed : ∀ ans ∈ s.answers, ∀ c ∈ ans.calls, allowedInAccess c = true

section
variable {j k : Nat} {s t : State}

theorem State.Scripted.mono (h : s.Scripted k) (hjk : j ≤ k) : s.Scripted j :=
  ⟨h.refused, hjk.trans h.enough, h.allowed⟩

theorem State.Scripted.congr (h : s.Scripted k) (hr : t.refused = s.refused) (ha : t.answers = s.answers) :
    t.Scripted k :=
  ⟨hr.trans h.refused, ha ▸ h.enough, ha ▸ h.allowed⟩

/-- An allowed call touches neither the mark nor the answers (60_exceptions.md R455). -/
theorem State.Scripted.callback (h : s.Scripted k) {c : HostCall} (hc : allowedInAccess c = true) :
    (s.callback c).Scripted k := by
  cases c
  case nmi | irq => exact h.congr rfl rfl
  case power | reset | run => cases hc

theorem State.Scripted.callbacks {l : List HostCall} (h : s.Scripted k) (hl : ∀ c ∈ l, allowedInAccess c = true) :
    (l.foldl State.callback s).Scripted k := by
  induction l generalizing s with
  | nil => exact h
  | cons c l ih =>
    obtain ⟨hc, hl⟩ := List.forall_mem_cons.1 hl
    exact ih (h.callback hc) hl

/-- An answer used up. -/
theorem State.Scripted.takeAnswer (h : s.Scripted (k + 1)) : s.takeAnswer.Scripted k := by
  obtain ⟨hr, hlen, hall⟩ := h
  unfold State.takeAnswer State.nextAnswer
  cases ha : s.answers with
  | nil => simp [ha] at hlen
  | cons ans rest =>
    rw [ha] at hlen hall
    obtain ⟨hcalls, hrest⟩ := List.forall_mem_cons.1 hall
    exact State.Scripted.callbacks ⟨hr, Nat.le_of_succ_le_succ hlen, hrest⟩ hcalls

end

/-! ### The accesses of a part of a step -/

/-- A part of a step that makes at most `n` accesses and is let through by `n` answers. -/
structure Within (n : Nat) (s t : State) : Prop where
  grown : Grown n s t
  scripted : ∀ k, s.Scripted (k + n) → t.Scripted k

section
variable {m n : Nat} {s t u : State}

theorem Within.trans (h₁ : Within m s t) (h₂ : Within n t u) : Within (m + n) s u :=
  ⟨h₁.grown.trans h₂.grown, fun k h => h₂.scripted k (h₁.scripted (k + n) (h.mono (by omega)))⟩

theorem Within.mono (h : Within m s t) (hmn : m ≤ n) : Within n s t :=
  ⟨h.grown.mono hmn, fun k hk => h.scripted k (hk.mono (by omega))⟩

end

/-- Writes of registers and flags alone. -/
theorem within_registers (s : State) (pc : Addr) (sp a x y : Byte) (f : Flags) :
    Within 0 s { s with pc := pc, sp := sp, a := a, x := x, y := y, flags := f } :=
  ⟨grown_registers s pc sp a x y f, fun _ h => h.congr rfl rfl⟩

theorem within_busRead (a : Addr) (s : State) : Within 1 s (busRead a s).2 := by
  refine ⟨grown_busRead a s, fun k h => ?_⟩
  unfold busRead
  split
  · exact h.takeAnswer.congr rfl rfl
  · exact (h.mono (Nat.le_succ k)).congr rfl rfl

theorem within_busWrite (a : Addr) (v : Byte) (s : State) : Within 1 s (busWrite a v s) := by
  refine ⟨grown_busWrite a v s, fun k h => ?_⟩
  unfold busWrite
  split
  · exact h.takeAnswer.congr rfl rfl
  · exact (h.mono (Nat.le_succ k)).congr rfl rfl

theorem within_push (v : Byte) (s : State) : Within 1 s (push v s) :=
  (within_busWrite _ v s).trans (within_registers _ _ _ _ _ _ _)

theorem within_pull (s : State) : Within 1 s (pull s).2 :=
  (within_registers s _ (s.sp + 1) _ _ _ _).trans (within_busRead _ _)

/-- The resolver makes the pointer reads of its operand (41_addressing_modes.md R186). -/
theorem within_resolve (o : Operand) (s : State) : Within (pointerReads o s).length s (resolve o s).state := by
  cases o
  case ind | izx | izy => exact (within_busRead _ s).trans (within_busRead _ _)
  all_goals exact within_registers s _ _ _ _ _ _

theorem within_loadLoc (l : Loc) (s : State) : Within 1 s (loadLoc l s).2 := by
  cases l
  case mem a => exact within_busRead a s
  all_goals exact (within_registers s _ _ _ _ _ _).mono (by omega)

theorem within_storeLoc (l : Loc) (v : Byte) (s : State) : Within 1 s (storeLoc l v s) := by
  cases l
  case mem a => exact within_busWrite a v s
  all_goals exact (within_registers s _ _ _ _ _ _).mono (by omega)

theorem within_jumpTo (l : Loc) (s : State) : Within 0 s (jumpTo l s) := by
  cases l <;> exact within_registers s _ _ _ _ _ _

/-- Three pushes and the two reads of the vector (60_exceptions.md R447). -/
theorem within_service (vec : Addr) (b : Bool) (s : State) : Within 5 s (service vec b s) :=
  (((within_push _ s).trans (within_push _ _)).trans
    ((within_push _ _).trans (within_registers _ _ _ _ _ _ _))).trans
      (((within_busRead vec _).trans (within_busRead _ _)).trans (within_registers _ _ _ _ _ _ _))

theorem within_returnFromService (s : State) : Within 3 s (returnFromService s) :=
  ((within_pull s).trans (within_registers _ _ _ _ _ _ _)).trans
    (((within_pull _).trans (within_pull _)).trans (within_registers _ _ _ _ _ _ _))

/-- The operand bytes fetched and the pointer reads are at most three, but for the pointer of JMP. -/
theorem bytes_add_pointerReads_le_three {o : Operand} (ho : o.mode ≠ .ind) (s : State) :
    o.bytes.length + (pointerReads o s).length ≤ 3 := by
  cases o
  case ind => exact absurd rfl ho
  all_goals simp [Operand.bytes, pointerReads]

/-- With the pointer of JMP they are four. -/
theorem bytes_add_pointerReads_le_four (o : Operand) (s : State) :
    o.bytes.length + (pointerReads o s).length ≤ 4 := by
  by_cases ho : o.mode = .ind
  · cases o <;> cases ho
    simp [Operand.bytes, pointerReads]
  · exact (bytes_add_pointerReads_le_three ho s).trans (by decide)

/-! ### The accesses of an instruction -/

/-- The outcome is the end of a step that costs at most 7 cycles (40_execution_loop.md R137) and makes at most `n`
accesses. -/
def Finishes (n : Nat) (s : State) (r : Result) : Prop :=
  ∃ (u : State) (c : Nat), r = finish c u ∧ c ≤ 7 ∧ Within n s u

section
variable {m n c : Nat} {s t u : State} {r : Result} {o : Operand}

theorem finishes_finish (h : Within m s u) (hc : c ≤ 7 := by decide) (hmn : m ≤ n := by decide) :
    Finishes n s (finish c u) :=
  ⟨u, c, rfl, hc, h.mono hmn⟩

theorem finishes_formed {i : Instr} (hw : i.wellFormed = true) (h : Finishes n s r) : Finishes n s (formed i r) :=
  (formed_of_wellFormed hw r).symm ▸ h

theorem finishes_readClass {use : Byte → State → State} (hu : ∀ v t, Within 0 t (use v t)) :
    Finishes (5 - o.bytes.length) s (readClass o use s) := by
  have hcost := readCycles_le o.mode
  have hcross := crossCycles_le (resolve o s).cross
  have hcount := bytes_add_pointerReads_le_four o s
  exact finishes_finish (((within_resolve o s).trans (within_loadLoc _ _)).trans (hu _ _)) (by omega) (by omega)

theorem finishes_writeClass {v : Byte} : Finishes (5 - o.bytes.length) s (writeClass o v s) := by
  have hcost := writeCycles_le o.mode
  have hcount := bytes_add_pointerReads_le_four o s
  exact finishes_finish ((within_resolve o s).trans (within_storeLoc _ v _)) (by omega) (by omega)

/-- A read-modify-write has a write beside its read, which the pointer of JMP alone would leave no room for. -/
theorem finishes_modifyClass {f : Byte → Flags → Byte × Flags} (ho : o.mode ≠ .ind) :
    Finishes (5 - o.bytes.length) s (modifyClass o f s) := by
  have hcost := modifyCycles_le o.mode
  have hcount := bytes_add_pointerReads_le_three ho s
  exact finishes_finish ((((within_resolve o s).trans (within_loadLoc _ _)).trans (within_storeLoc _ _ _)).trans
    (within_registers _ _ _ _ _ _ _)) (by omega) (by omega)

theorem finishes_branch {cond : Bool} {off : Byte} : Finishes n s (branch cond off s) := by
  have hcross := crossCycles_le (resolve (.rel off) s).cross
  unfold branch
  split
  · exact finishes_finish ((within_resolve (.rel off) s).trans (within_jumpTo _ _)) (by omega) (Nat.zero_le n)
  · exact finishes_finish (within_resolve (.rel off) s) (by decide) (Nat.zero_le n)

end

/-- A mode list without the indirect form. -/
theorem ne_ind_of_contains {modes : List Mode} {m : Mode} (h : modes.contains m = true)
    (hi : modes.contains .ind = false := by decide) : m ≠ .ind := by
  rintro rfl
  exact nomatch hi.symm.trans h

/-- Every documented instruction comes to the end of its step within 7 cycles, and has at most five accesses for its
operand bytes and its own execution (41_addressing_modes.md R186, 46_control.md R370 to R373). -/
theorem exec_finishes {i : Instr} (hw : i.wellFormed = true) (hu : ∀ op, i ≠ .undoc op) (s : State) :
    Finishes (5 - i.operandBytes.length) s (exec i s) := by
  cases i
  case lda o | ldx o | ldy o | and o | ora o | eor o | adc o | sbc o | cmp o | cpx o | cpy o | bit o =>
    exact finishes_formed hw (finishes_readClass fun _ t => within_registers t _ _ _ _ _ _)
  case sta o | stx o | sty o => exact finishes_formed hw finishes_writeClass
  case inc o | dec o | asl o | lsr o | rol o | ror o =>
    exact finishes_formed hw (finishes_modifyClass (ne_ind_of_contains hw))
  case tax | tay | txa | tya | tsx | txs | inx | iny | dex | dey | clc | sec | cli | sei | cld | sed | clv | nop =>
    exact finishes_finish (within_registers s _ _ _ _ _ _)
  case pha | php => exact finishes_finish (within_push _ s)
  case pla | plp => exact finishes_finish ((within_pull s).trans (within_registers _ _ _ _ _ _ _))
  case bcc | bcs | beq | bmi | bne | bpl | bvc | bvs => exact finishes_branch
  case jmp o =>
    have hcost := jumpCycles_le o.mode
    have hcount := bytes_add_pointerReads_le_four o s
    exact finishes_formed hw (finishes_finish ((within_resolve o s).trans (within_jumpTo _ _)) (by omega)
      (by show _ ≤ 5 - o.bytes.length; omega))
  case jsr lo =>
    exact finishes_finish (((within_push _ s).trans (within_push _ _)).trans
      ((within_busRead _ _).trans (within_registers _ _ _ _ _ _ _))) (hmn := by simp [Instr.operandBytes])
  case rts =>
    exact finishes_finish (((within_pull s).trans (within_pull _)).trans (within_registers _ _ _ _ _ _ _))
  case brk => exact finishes_finish ((within_registers s _ _ _ _ _ _).trans (within_service _ _ _))
  case rti => exact finishes_finish (within_returnFromService s)
  case undoc op => exact absurd rfl (hu op)

/-- A next state of an instruction is the end of a step whose accesses are counted: an undocumented value has none. -/
theorem exec_next_grown {i : Instr} {s t : State} (hw : i.wellFormed = true) (h : exec i s = .next t) :
    ∃ (u : State) (c : Nat), Grown (5 - i.operandBytes.length) s u ∧ finish c u = .next t := by
  have hu : ∀ op, i ≠ .undoc op := by rintro op rfl; cases h
  obtain ⟨u, c, hf, -, hg⟩ := exec_finishes hw hu s
  exact ⟨u, c, hg.grown, hf.symm.trans h⟩

/-! ### The accesses of a step -/

/-- The instruction fetched is one of the hardware, and the fetch has read the operand bytes that it holds. -/
theorem fetchInstr_spec (s : State) :
    (fetchInstr s).instr.wellFormed = true ∧
      (fetchInstr s).instr.operandBytes.length = operandCount (fetchByte s).1 := by
  have hspec := ofBytes_spec (fetchByte s).1
  refine ⟨(hspec _ _).1, ?_⟩
  rw [fetchInstr, (hspec _ _).2.2, List.length_take]
  exact Nat.min_eq_left (operandCount_le _)

/-- A step of a powered core makes at most six accesses: a service five, an instruction its opcode and the five that its
operand bytes and its execution have. -/
theorem step_grown {s t : State} (hp : s.power = true) (h : step s = .next t) :
    ∃ (u : State) (c : Nat), Grown 6 s.latchTaken u ∧ finish c u = .next t := by
  have hs := h
  rw [step_powered (refused_of_step_next h) hp, poweredStep] at hs
  cases he : boundaryEvent s <;> simp only [he, State.latchTaken] at hs ⊢
  case reset => exact ⟨_, _, (grown_resetSequence s).mono (by decide), hs⟩
  case nmi => exact ⟨_, _, (grown_service _ _ _).mono (by decide), hs⟩
  case irq => exact ⟨_, _, (grown_service _ _ _).mono (by decide), hs⟩
  case instruction =>
    obtain ⟨hw, hlen⟩ := fetchInstr_spec s
    have hle := operandCount_le (fetchByte s).1
    obtain ⟨u, c, hg, hu⟩ := exec_next_grown hw (exec_of_step_next hp he h)
    exact ⟨u, c, ((grown_fetchInstr s).trans hg).mono (by omega), hu⟩

@[simp] theorem State.latchTaken_history (s : State) : s.latchTaken.history = s.history := by
  unfold State.latchTaken; split <;> rfl

/-! ### The stack slot -/

/-- The slot at SP as a number (20_memory.md R76, R77). -/
theorem stackAddr_eq (p : Byte) : stackAddr p = BitVec.ofNat 16 (0x0100 + p.toNat) := rfl

/-! ### The statements -/

/-- Settles O11: canonical memories that read alike have the same cells. -/
theorem canonicalMemoriesAgree : Obligations.CanonicalMemoriesAgree := by
  intro m n hm hn h
  refine Memory.eq_of_mem_iff hm hn fun cell => ?_
  rw [Memory.mem_iff_read hm, Memory.mem_iff_read hn]
  refine and_congr_right fun hlt => ?_
  have hread := h (BitVec.ofNat 16 cell.1)
  rw [BitVec.toNat_ofNat, Nat.mod_eq_of_lt hlt] at hread
  rw [hread]

/-- Settles O18: the instruction comes to the end of its step, and six answers are enough for its accesses. -/
theorem deviceAnswersLetInstructionsComplete : Obligations.DeviceAnswersLetInstructionsComplete := by
  intro i s hw hu hr hfits henough hallowed
  obtain ⟨u, c, hf, hc, hg⟩ := exec_finishes hw hu s
  have hs : s.Scripted (0 + (5 - i.operandBytes.length)) := ⟨hr, by omega, hallowed⟩
  have hroom : Config.fits (u.cycles + c) = true := by
    rw [hg.grown.cycles]
    exact Config.fits_mono (by omega) hfits
  exact ⟨_, hf.trans (finish_of_fits (hg.scripted 0 hs).refused hroom)⟩

/-- Settles O55: without power nothing happens, and with it the accesses of a step are counted. -/
theorem stepAppendsAccesses : Obligations.StepAppendsAccesses := by
  intro s t h
  cases hp : s.power with
  | false => exact ⟨[], by rw [step_unpowered hp h]; rfl, by decide⟩
  | true =>
    obtain ⟨u, c, hg, hu⟩ := step_grown hp h
    obtain ⟨-, -, rfl⟩ := finish_next.1 hu
    obtain ⟨new, hnew, hle⟩ := hg.history
    exact ⟨new, by rw [← s.latchTaken_history]; exact hnew, hle⟩

/-- Settles O10: on plain RAM an access of the bus is one of memory. -/
theorem plainRamReadsLastWrite : Obligations.PlainRamReadsLastWrite := by
  intro s a b v h
  rw [busRead_plain (by simpa using h), busRead_plain h, busWrite_plain h]
  exact State.peek_poke s a b v

/-- Settles O12: the two operations, with the slot written as a number. -/
theorem stackDiscipline : Obligations.StackDiscipline := by
  refine ⟨fun v s => ?_, fun s => ?_⟩
  · rw [← stackAddr_eq]
    simp only [push, busWrite_sp]
    rfl
  · have hsp : (s.sp.toNat + 1) % 256 = (s.sp + 1).toNat := (BitVec.toNat_add s.sp 1).symm
    rw [hsp, ← stackAddr_eq]
    rfl

/-- Settles O13: the word is the join of the two bytes read, low byte first. -/
theorem wordReadIsLittleEndian : Obligations.WordReadIsLittleEndian := by
  refine fun a s => ⟨rfl, joinBytes_toNat _ _, fun h => ?_⟩
  rw [busRead16_plain h]
  exact joinBytes_toNat _ _

end Sys2Proof.Machine

/-!
PROOFS of the family 30_encoding.md. What `decode` answers on an opcode byte and the bytes after it is said once
(`decode_cons_eq_ok_iff`); the laws of `Instr.ofBytes` then give the round trip in both directions.
-/

namespace Sys2Proof

/-! ### The decoder -/

/-- An opcode and the bytes after it decode exactly when no operand byte is missing (30_encoding.md R103, R104). -/
theorem decode_cons_eq_ok_iff {op : Byte} {tail rest : List Byte} {i : Instr} :
    decode (op :: tail) = .ok (i, rest) ↔
      operandCount op ≤ tail.length ∧ Instr.ofBytes op (tail.getD 0 0) (tail.getD 1 0) = i ∧
        tail.drop (operandCount op) = rest := by
  rw [decode]
  split
  · simp only [reduceCtorEq, false_iff]
    omega
  · simp only [Except.ok.injEq, Prod.mk.injEq, iff_and_self]
    omega

/-- What bytes assemble to holds as many operand bytes as its opcode asks for. -/
theorem ofBytes_operandBytes_length (op b1 b2 : Byte) :
    (Instr.ofBytes op b1 b2).operandBytes.length = operandCount op := by
  rw [(ofBytes_spec op b1 b2).2.2, List.length_take]
  exact Nat.min_eq_left (operandCount_le op)

/-- The decoder looks at the first two bytes only: they are the list's own first `n`, for `n` at most two. -/
theorem take_getD_pair {n : Nat} {l : List Byte} (hn : n ≤ 2) (hl : n ≤ l.length) :
    [l.getD 0 0, l.getD 1 0].take n = l.take n := by
  match n, l with
  | 0, _ => rfl
  | 1, _ :: _ => rfl
  | 2, _ :: _ :: _ => rfl

/-! ### The assembly of an instruction -/

/-- Exactly the undocumented values assemble to `undoc`, whatever bytes follow (30_encoding.md R108). -/
theorem ofBytes_eq_undoc_iff (op b1 b2 : Byte) :
    Instr.ofBytes op b1 b2 = .undoc op ↔ op ∈ undocumentedOpcodes := by
  constructor
  · intro h
    have hw := (ofBytes_spec op b1 b2).1
    rw [h] at hw
    exact List.contains_iff_mem.1 hw
  · have table : undocumentedOpcodes.map (Instr.ofBytes · b1 b2) = undocumentedOpcodes.map .undoc := rfl
    exact List.map_inj_left.1 table op

/-- A well-formed instruction is what its opcode and its operand bytes assemble to: the opcode map has it where the
tables of the instruction rules put it (30_encoding.md R102, R105). `cases hw` rules out the modes that the
mnemonic does not have. -/
theorem exists_opcode_ofBytes {i : Instr} (hw : i.WellFormed) :
    ∃ op, i.opcode = some op ∧ ∀ rest : List Byte,
      Instr.ofBytes op ((i.operandBytes ++ rest).getD 0 0) ((i.operandBytes ++ rest).getD 1 0) = i := by
  cases i
  case undoc op =>
    exact ⟨op, if_pos hw, fun _ => (ofBytes_eq_undoc_iff op _ _).2 (List.contains_iff_mem.1 hw)⟩
  case adc o | and o | asl o | bit o | cmp o | cpx o | cpy o | dec o | eor o | inc o | jmp o | lda o | ldx o | ldy o |
      lsr o | ora o | rol o | ror o | sbc o | sta o | stx o | sty o =>
    cases o
    case abs a | abx a | aby a | ind a =>
      cases hw <;> exact ⟨_, rfl, fun _ => congrArg _ (congrArg _ (joinBytes_split a))⟩
    all_goals cases hw <;> exact ⟨_, rfl, fun _ => rfl⟩
  all_goals exact ⟨_, rfl, fun _ => rfl⟩

/-! ### The offset of a branch -/

/-- The low byte of an address that is a signed byte, sign-extended, is the address (00_scope.md R9). -/
theorem signExtend16_lowByte {d : Addr} (hlo : -128 ≤ d.toInt) (hhi : d.toInt ≤ 127) :
    Machine.signExtend16 (lowByte d) = d := by
  have hbyte : (lowByte d).toInt = d.toInt.bmod (2 ^ 8) := by
    rw [BitVec.toInt_eq_toNat_bmod d, Int.bmod_bmod_of_dvd (by decide), lowByte, BitVec.ofNat_toNat,
      BitVec.toInt_setWidth]
  apply BitVec.eq_of_toInt_eq
  rw [Machine.signExtend16, BitVec.toInt_signExtend_of_le (by decide), hbyte]
  exact Int.bmod_eq_of_le hlo (by omega)

/-! ### The statements -/

/-- Settles O1: the assembly gives the instruction back, and its opcode asks for as many bytes as it holds. -/
theorem decodeOfEncode : Obligations.DecodeOfEncode := by
  intro i rest hw
  obtain ⟨op, hop, hbytes⟩ := exists_opcode_ofBytes hw
  have hlen : operandCount op = i.operandBytes.length := by
    rw [← ofBytes_operandBytes_length op, hbytes rest]
  simp only [encode, hop, List.cons_append]
  refine decode_cons_eq_ok_iff.2 ⟨?_, hbytes rest, ?_⟩
  · rw [hlen, List.length_append]
    exact Nat.le_add_right _ _
  · rw [hlen, List.drop_left]

/-- Settles O2: the encoding gives back the bytes taken, and the rest is what is left of them. -/
theorem encodeOfDecode : Obligations.EncodeOfDecode := by
  intro bytes rest i h
  cases bytes with
  | nil => cases h
  | cons op tail =>
    obtain ⟨hlen, rfl, rfl⟩ := decode_cons_eq_ok_iff.1 h
    refine ⟨(ofBytes_spec op _ _).1, ?_⟩
    rw [encode_ofBytes, take_getD_pair (operandCount_le op) hlen, List.cons_append, List.take_append_drop]

/-- Settles O3: two bytes are as many as any opcode asks for. -/
theorem everyOpcodeDecodes : Obligations.EveryOpcodeDecodes := by
  intro op b1 b2 rest
  have hlen : operandCount op ≤ (b1 :: b2 :: rest).length :=
    (operandCount_le op).trans (Nat.le_add_left 2 rest.length)
  exact ⟨Instr.ofBytes op b1 b2, _, decode_cons_eq_ok_iff.2 ⟨hlen, rfl, rfl⟩, (ofBytes_spec op b1 b2).2.1,
    (ofBytes_eq_undoc_iff op b1 b2).symm, rfl⟩

/-- Settles O5: the offset extends to the distance from the next instruction, which PC holds. -/
theorem branchOffsetReachesTarget : Obligations.BranchOffsetReachesTarget := by
  intro p t s henc hpc
  simp only [branchEncodable, Bool.and_eq_true, decide_eq_true_eq] at henc
  obtain ⟨hlo, hhi⟩ := henc
  rw [Machine.resolve, hpc, branchOffset, signExtend16_lowByte hlo hhi]
  exact congrArg _ (add_sub_cancel (p + 2) t)

/-- Settles O4: each word by evaluation of the decoder. -/
theorem sampleWordsDecode : Obligations.SampleWordsDecode := by
  unfold Obligations.SampleWordsDecode
  decide

end Sys2Proof

/-!
SUPPORT AND PROOFS of the family 40_execution_loop.md. What a step costs: at least two cycles (`exec_costsTwo`), beside the
seven of `exec_finishes`; what `run` is made of, and the induction on its fuel (`runLoop_returned`); and that the bytes a
fetch has read are the encoding of the instruction they decode to.
-/

namespace Sys2Proof.Machine

open Sys2Proof

/-! ### What a step costs at least -/

/-- A next state, if the outcome is one, has two cycles more than `s` at least (40_execution_loop.md R137). -/
def CostsTwo (s : State) (r : Result) : Prop := ∀ t, r = .next t → s.cycles + 2 ≤ t.cycles

section
variable {s u : State} {c : Nat} {o : Operand}

theorem costsTwo_finish (hu : u.cycles = s.cycles) (hc : 2 ≤ c := by decide) : CostsTwo s (finish c u) := by
  intro t h
  obtain ⟨-, -, rfl⟩ := finish_next.1 h
  rw [← hu]
  exact Nat.add_le_add_left hc _

theorem costsTwo_refused {r : Refusal} : CostsTwo s (.refused r) :=
  fun _ h => nomatch h

theorem costsTwo_formed {i : Instr} {r : Result} (h : i.wellFormed = true → CostsTwo s r) : CostsTwo s (formed i r) :=
  fun t ht => h (formed_next.1 ht).1 t (formed_next.1 ht).2

/-- A mode of a list costs two cycles if the whole list does: what a table gives the modes outside of it, which is 0,
does not matter. -/
theorem two_le_of_contains {modes : List Mode} {cost : Mode → Nat} {m : Mode} (h : modes.contains m = true)
    (hall : ∀ k ∈ modes, 2 ≤ cost k := by decide) : 2 ≤ cost m :=
  hall m (List.contains_iff_mem.1 h)

theorem costsTwo_readClass {use : Byte → State → State} (hc : 2 ≤ readCycles o.mode)
    (hu : ∀ v t, (use v t).cycles = t.cycles) : CostsTwo s (readClass o use s) :=
  costsTwo_finish (by simp [hu]) (hc.trans (Nat.le_add_right _ _))

theorem costsTwo_writeClass {v : Byte} (hc : 2 ≤ writeCycles o.mode) : CostsTwo s (writeClass o v s) :=
  costsTwo_finish (by simp) hc

theorem costsTwo_modifyClass {f : Byte → Flags → Byte × Flags} (hc : 2 ≤ modifyCycles o.mode) :
    CostsTwo s (modifyClass o f s) :=
  costsTwo_finish (by simp) hc

theorem costsTwo_branch {cond : Bool} {off : Byte} : CostsTwo s (branch cond off s) := by
  unfold branch
  split
  · exact costsTwo_finish (by simp) (Nat.le_add_right 2 _)
  · exact costsTwo_finish (by simp)

end

/-- No instruction costs less than two cycles (the cycle columns of the instruction rules). -/
theorem exec_costsTwo (i : Instr) (s : State) : CostsTwo s (exec i s) := by
  cases i
  case lda o | ldx o | ldy o | and o | ora o | eor o | adc o | sbc o | cmp o | cpx o | cpy o | bit o =>
    exact costsTwo_formed fun hw => costsTwo_readClass (two_le_of_contains hw) fun _ _ => rfl
  case sta o | stx o | sty o => exact costsTwo_formed fun hw => costsTwo_writeClass (two_le_of_contains hw)
  case inc o | dec o | asl o | lsr o | rol o | ror o =>
    exact costsTwo_formed fun hw => costsTwo_modifyClass (two_le_of_contains hw)
  case jmp o => exact costsTwo_formed fun hw => costsTwo_finish (by simp) (two_le_of_contains hw)
  case bcc | bcs | beq | bmi | bne | bpl | bvc | bvs => exact costsTwo_branch
  case undoc => exact costsTwo_refused
  case tax | tay | txa | tya | tsx | txs | inx | iny | dex | dey | clc | sec | cli | sei | cld | sed | clv | nop =>
    exact costsTwo_finish rfl
  case pha | php | pla | plp | jsr | rts | brk | rti => exact costsTwo_finish (by simp)

/-- A next state of an instruction of the hardware has two to seven cycles more (40_execution_loop.md R137). -/
theorem exec_cost {i : Instr} {s t : State} (hw : i.wellFormed = true) (h : exec i s = .next t) :
    s.cycles + 2 ≤ t.cycles ∧ t.cycles ≤ s.cycles + 7 := by
  refine ⟨exec_costsTwo i s t h, ?_⟩
  have hu : ∀ op, i ≠ .undoc op := by rintro op rfl; cases h
  obtain ⟨u, c, hf, hc, hg⟩ := exec_finishes hw hu s
  obtain ⟨-, -, rfl⟩ := finish_next.1 (hf.symm.trans h)
  rw [← hg.grown.cycles]
  exact Nat.add_le_add_left hc _

/-- A service or reset sequence costs seven cycles (40_execution_loop.md R136). -/
theorem finish_serviceCost {s t u : State} (hu : u.cycles = s.cycles) (h : finish serviceCost u = .next t) :
    t.cycles = s.cycles + 7 := by
  obtain ⟨-, -, rfl⟩ := finish_next.1 h
  rw [← hu]
  rfl

/-- A step of a powered core costs two to seven cycles (40_execution_loop.md R137). -/
theorem step_cost {s t : State} (hp : s.power = true) (h : step s = .next t) :
    s.cycles + 2 ≤ t.cycles ∧ t.cycles ≤ s.cycles + 7 := by
  have hs := h
  rw [step_powered (refused_of_step_next h) hp, poweredStep] at hs
  cases he : boundaryEvent s <;> simp only [he] at hs
  case reset => have := finish_serviceCost (resetSequence_cycles s) hs; omega
  case nmi => have := finish_serviceCost (nmiService_cycles s) hs; omega
  case irq => have := finish_serviceCost (irqService_cycles s) hs; omega
  case instruction =>
    have hc := exec_cost (fetchInstr_spec s).1 (exec_of_step_next hp he h)
    rwa [fetchInstr_cycles] at hc

/-! ### What a step keeps -/

@[simp] theorem State.latchTaken_mem (s : State) : s.latchTaken.mem = s.mem := by
  unfold State.latchTaken; split <;> rfl

/-- A step of a powered core leaves memory canonical, the counter in its width and the mark clear
(20_memory.md R70; 40_execution_loop.md R141, R144). -/
theorem step_powered_inv {s t : State} (hp : s.power = true) (hwf : s.mem.wf = true) (h : step s = .next t) :
    t.Inv := by
  obtain ⟨u, c, hg, hu⟩ := step_grown hp h
  obtain ⟨hr, hfits, rfl⟩ := finish_next.1 hu
  exact ⟨hg.wf (by simpa using hwf), hfits, hr⟩

/-- No step writes the power flag (10_state.md R47). -/
theorem step_power {s t : State} (hp : s.power = true) (h : step s = .next t) : t.power = true := by
  obtain ⟨u, c, hg, hu⟩ := step_grown hp h
  obtain ⟨-, -, rfl⟩ := finish_next.1 hu
  exact hg.power.trans (by simpa using hp)

/-! ### The loop of a run -/

/-- A loop whose count has reached the budget is over, whatever fuel is left. -/
theorem runLoop_of_le {fuel budget : Nat} {s : State} (h : budget ≤ s.cycles) :
    runLoop fuel budget s = .returned s.cycles s := by
  cases fuel with
  | zero => rfl
  | succ fuel => rw [runLoop, if_neg (Nat.not_lt.2 h)]

/-- A loop below its budget takes a step and goes on. -/
theorem runLoop_of_step {fuel budget : Nat} {s t : State} (hlt : s.cycles < budget) (h : step s = .next t) :
    runLoop (fuel + 1) budget s = runLoop fuel budget t := by
  rw [runLoop, if_pos hlt, h]

/-- A loop below its budget that returns has taken a step that answers a next state. -/
theorem step_of_runLoop_returned {fuel budget r : Nat} {s t : State} (hlt : s.cycles < budget)
    (h : runLoop (fuel + 1) budget s = .returned r t) :
    ∃ u, step s = .next u ∧ runLoop fuel budget u = .returned r t := by
  rw [runLoop, if_pos hlt] at h
  cases hs : step s with
  | next u => exact ⟨u, rfl, by simpa only [hs] using h⟩
  | refused q => simp [hs] at h
  | fault f => exact nomatch f

/-- What a loop returns, on fuel for the cycles that the budget is still away: each step takes the counter nearer to the
budget, and the last one, from below it, at most six past it. -/
theorem runLoop_returned {fuel budget r : Nat} {s t : State} (hp : s.power = true) (hfuel : budget ≤ s.cycles + fuel)
    (hle : s.cycles ≤ budget + 6) (h : runLoop fuel budget s = .returned r t) :
    budget ≤ r ∧ r ≤ budget + 6 ∧ t.cycles = r := by
  induction fuel generalizing s with
  | zero =>
    obtain ⟨rfl, rfl⟩ : s.cycles = r ∧ s = t := by simpa [runLoop] using h
    exact ⟨hfuel, hle, rfl⟩
  | succ fuel ih =>
    by_cases hlt : s.cycles < budget
    · obtain ⟨u, hs, hu⟩ := step_of_runLoop_returned hlt h
      obtain ⟨hlo, hhi⟩ := step_cost hp hs
      exact ih (step_power hp hs) (by omega) (by omega) hu
    · rw [runLoop_of_le (Nat.not_lt.1 hlt)] at h
      obtain ⟨rfl, rfl⟩ : s.cycles = r ∧ s = t := by simpa using h
      exact ⟨Nat.not_lt.1 hlt, hle, rfl⟩

/-- A run of a powered core is its loop, from the counter zeroed (40_execution_loop.md R132). -/
theorem hostRun_powered {budget : Nat} {s : State} (hr : s.refused = none) (hp : s.power = true)
    (hfits : Config.fits budget = true) : hostRun budget s = runLoop budget budget { s with cycles := 0 } := by
  simp [hostRun, hr, hp, hfits]

/-- A run of a core without power (40_execution_loop.md R131). -/
theorem hostRun_unpowered {s : State} (budget : Nat) (hr : s.refused = none) (hp : s.power = false) :
    hostRun budget s = .returned 0 s := by
  simp [hostRun, hr, hp]

/-- A run of a powered core that returns was not refused at its start, and its loop returns. -/
theorem runLoop_of_hostRun_returned {budget r : Nat} {s t : State} (hp : s.power = true)
    (h : hostRun budget s = .returned r t) : runLoop budget budget { s with cycles := 0 } = .returned r t := by
  rw [hostRun] at h
  split at h
  · cases h
  · rw [if_pos hp] at h
    split at h
    · exact h
    · cases h

/-! ### The instruction fetched -/

/-- Instructions of the hardware with the same encoding are the same, since the encoding decodes to each. -/
theorem encode_injective {i j : Instr} (hi : i.WellFormed) (hj : j.WellFormed) (h : encode i = encode j) : i = j := by
  have hdi := decodeOfEncode i [] hi
  rw [h, decodeOfEncode j [] hj] at hdi
  simpa using hdi.symm

/-- On plain RAM the bytes that a fetch has read are as many of the bytes at PC as the opcode asks for. -/
theorem encode_fetchInstr_plain {s : State} (h : s.devices = []) :
    encode (fetchInstr s).instr =
      s.peek s.pc :: [s.peek (s.pc + 1), s.peek (s.pc + 2)].take (operandCount (s.peek s.pc)) := by
  have hle := operandCount_le (s.peek s.pc)
  rw [fetchInstr_plain h, encode_ofBytes]
  generalize operandCount (s.peek s.pc) = n at hle ⊢
  interval_cases n <;> rfl

/-- On plain RAM a fetch ends with the bytes of its instruction read and PC past them. -/
theorem fetchInstr_state_plain {s : State} (h : s.devices = []) :
    (fetchInstr s).state = s.fetched (encode (fetchInstr s).instr).length := by
  rw [fetchInstr_encode_length, fetchByte_plain h, fetchInstr_plain h]

/-- The instruction fetched on plain RAM is the one that the bytes at PC decode to (40_execution_loop.md R134). -/
theorem fetchInstr_instr_of_decode {s : State} {i : Instr} {rest : List Byte} (h : s.devices = [])
    (hd : decode [s.peek s.pc, s.peek (s.pc + 1), s.peek (s.pc + 2)] = .ok (i, rest)) : (fetchInstr s).instr = i := by
  obtain ⟨-, rfl, -⟩ := decode_cons_eq_ok_iff.1 hd
  refine encode_injective (fetchInstr_spec s).1 (ofBytes_spec _ _ _).1 ?_
  rw [encode_fetchInstr_plain h, encode_ofBytes]
  rfl

/-- On plain RAM, where no device calls anything, an instruction step runs what it has fetched. -/
theorem instructionStep_plain {s : State} (h : s.devices = []) (hr : s.refused = none) :
    instructionStep s = exec (fetchInstr s).instr (fetchInstr s).state := by
  have hf : (fetchInstr s).state.refused = none := by rw [fetchInstr_state_plain h]; exact hr
  simp only [instructionStep, hf]

/-! ### The statements -/

/-- Settles O50: a step of a powered core only grows, and its end tests the counter and the mark; one without power
changes nothing. -/
theorem stepKeepsInvariant : Obligations.StepKeepsInvariant := by
  intro s t hinv h
  cases hp : s.power with
  | false => exact step_unpowered hp h ▸ hinv
  | true => exact step_powered_inv hp hinv.1 h

/-- Settles O47: by induction on the fuel, which is the budget, each step costing two to seven cycles. -/
theorem runReturnsBudgetOrSixMore : Obligations.RunReturnsBudgetOrSixMore := by
  intro s t budget r hp _ h
  exact runLoop_returned (s := { s with cycles := 0 }) hp (Nat.le_add_left budget 0) (Nat.zero_le _)
    (runLoop_of_hostRun_returned hp h)

/-- Settles O48: one step takes the counter past a budget of one, and a budget of none is reached at once. -/
theorem runOneIsOneStep : Obligations.RunOneIsOneStep := by
  intro s hr hp
  refine ⟨fun t h => ?_, ?_⟩
  · rw [hostRun_powered hr hp (by decide), runLoop_of_step Nat.zero_lt_one h]
    rfl
  · rw [hostRun_powered hr hp (by decide)]
    rfl

/-- Settles O53: the cost of a service or of the instruction fetched. -/
theorem stepCostsTwoToSeven : Obligations.StepCostsTwoToSeven :=
  fun _ _ hp h => step_cost hp h

/-- Settles O7: the fetch on plain RAM reads the encoding of the instruction that the bytes at PC decode to. -/
theorem stepRunsDecodedInstruction : Obligations.StepRunsDecodedInstruction := by
  intro s i rest hd hr hp he hdec
  rw [step_powered hr hp, poweredStep, he, ← fetchInstr_instr_of_decode hd hdec, ← fetchInstr_state_plain hd]
  exact instructionStep_plain hd hr

/-- Settles O9: both look at the mark first. -/
theorem refusedStateHasNoStep : Obligations.RefusedStateHasNoStep := by
  intro s r hr
  exact ⟨by simp [step, boundaryStep, hr], fun budget => by simp [hostRun, hr]⟩

/-- Settles O19: each entry of the tables by evaluation. -/
theorem baseCycleCounts : Obligations.BaseCycleCounts := by
  unfold Obligations.BaseCycleCounts
  decide

/-- Settles O46: a run looks at the power flag before it zeroes the counter. -/
theorem runWithoutPowerDoesNothing : Obligations.RunWithoutPowerDoesNothing :=
  fun _ budget hr => ⟨hostRun_unpowered budget hr, hostRun_unpowered budget hr rfl⟩

end Sys2Proof.Machine

/-!
SUPPORT AND PROOFS of the family 41_addressing_modes.md. The address sums of the modes as numbers (`indexed_eq`,
`relativeTarget_eq`); and which registers and which bytes of memory an instruction may write, said once for every
adapter: `Spares`, beside `Kept` of 10_state.md, which speaks of the control state and the flags. `exec_spares`
establishes it and `exec_frame` puts the two together.
-/

namespace Sys2Proof.Machine

open Sys2Proof

/-! ### Addresses as numbers -/

theorem zeroPage_eq_ofNat (z : Byte) : zeroPage z = BitVec.ofNat 16 z.toNat := (BitVec.ofNat_toNat 16 z).symm

@[simp] theorem zeroPage_toNat (z : Byte) : (zeroPage z).toNat = z.toNat := BitVec.toNat_setWidth_of_le (by decide)

/-- The sum of a zero-page mode is one of bytes, so it stays in the zero page (41_addressing_modes.md R175, R176). -/
theorem zeroPage_add_eq_ofNat (z i : Byte) : zeroPage (z + i) = BitVec.ofNat 16 ((z.toNat + i.toNat) % 256) := by
  rw [zeroPage_eq_ofNat, BitVec.toNat_add]

@[simp] theorem highByte_toNat (a : Addr) : (highByte a).toNat = a.toNat / 256 := by
  have := a.isLt
  simp only [highByte, BitVec.toNat_ofNat]
  omega

@[simp] theorem lowByte_toNat (a : Addr) : (lowByte a).toNat = a.toNat % 256 := BitVec.toNat_ofNat _ _

/-- Two addresses lie in different pages when their page numbers differ. -/
theorem otherPage_eq (a b : Addr) : otherPage a b = decide (a.toNat / 256 ≠ b.toNat / 256) := by
  rw [otherPage, Bool.eq_iff_iff, bne_iff_ne, decide_eq_true_iff, ← highByte_toNat, ← highByte_toNat, ne_eq, ne_eq,
    BitVec.toNat_inj]

/-- An index added to a base, as a number. -/
theorem add_zeroPage_toNat (a : Addr) (i : Byte) : (a + zeroPage i).toNat = (a.toNat + i.toNat) % 65536 := by
  rw [BitVec.toNat_add, zeroPage_toNat]

/-- An index takes a base to another page exactly when it carries out of the low byte: past 0xFFFF too, where the page
after the last is page 0. -/
theorem otherPage_add_zeroPage (a : Addr) (i : Byte) :
    otherPage (a + zeroPage i) a = decide (a.toNat % 256 + i.toNat > 255) := by
  have ha := a.isLt
  have hi := i.isLt
  rw [otherPage_eq, add_zeroPage_toNat, decide_eq_decide]
  omega

/-- The indexed sum as a number, and the crossing as a carry (R178, R179, R182). -/
theorem indexed_eq (a : Addr) (i : Byte) (s : State) :
    indexed a i s =
      ⟨.mem (BitVec.ofNat 16 ((a.toNat + i.toNat) % 65536)), decide (a.toNat % 256 + i.toNat > 255), s⟩ := by
  rw [indexed, otherPage_add_zeroPage, ← add_zeroPage_toNat, BitVec.ofNat_toNat, BitVec.setWidth_eq]

/-- The target of a branch as a signed sum modulo 65,536 (R183). -/
theorem relativeTarget_eq (p : Addr) (off : Byte) : p + signExtend16 off = BitVec.ofInt 16 (p.toNat + off.toInt) := by
  rw [BitVec.ofInt_add, BitVec.ofInt_natCast, BitVec.ofNat_toNat, BitVec.setWidth_eq]
  rfl

/-- The second byte of the pointer of JMP lies in the page of the first (R180). -/
theorem indirectHigh_toNat (p : Addr) :
    (joinBytes (highByte p) (lowByte p + 1)).toNat = p.toNat / 256 * 256 + (p.toNat + 1) % 256 := by
  rw [joinBytes_toNat, highByte_toNat, BitVec.toNat_add, lowByte_toNat]
  simp

/-! ### The registers and bytes that a part of a step writes -/

/-- A set of the registers A, X, Y and SP. -/
structure RegisterSet where
  a : Bool
  x : Bool
  y : Bool
  sp : Bool

/-- The registers an instruction may write (10_state.md R31 to R34), true where it may. -/
def registersWritten : Instr → RegisterSet
  | .lda _ | .and _ | .ora _ | .eor _ | .adc _ | .sbc _ | .txa | .tya => ⟨true, false, false, false⟩
  | .ldx _ | .tax | .tsx | .inx | .dex => ⟨false, true, false, false⟩
  | .ldy _ | .tay | .iny | .dey => ⟨false, false, true, false⟩
  | .asl o | .lsr o | .rol o | .ror o => ⟨decide (o = .acc), false, false, false⟩
  | .pla => ⟨true, false, false, true⟩
  | .txs | .pha | .php | .plp | .jsr _ | .rts | .brk | .rti => ⟨false, false, false, true⟩
  | _ => ⟨false, false, false, false⟩

/-- The addresses an instruction may write: the one its operand resolves to, or the stack slots it pushes to. -/
def WritesAt (i : Instr) (s : State) (b : Addr) : Prop :=
  match i with
  | .sta o | .stx o | .sty o | .inc o | .dec o | .asl o | .lsr o | .rol o | .ror o => (resolve o s).loc = .mem b
  | .pha | .php => b ∈ [stackAddr s.sp]
  | .jsr _ => b ∈ [stackAddr s.sp, stackAddr (s.sp - 1)]
  | .brk => b ∈ [stackAddr s.sp, stackAddr (s.sp - 1), stackAddr (s.sp - 2)]
  | _ => False

/-- Registers outside of `w` and bytes of memory at addresses outside of `p` are as before. -/
structure Spares (w : RegisterSet) (p : Addr → Prop) (s t : State) : Prop where
  a : w.a = false → t.a = s.a
  x : w.x = false → t.x = s.x
  y : w.y = false → t.y = s.y
  sp : w.sp = false → t.sp = s.sp
  memory : ∀ b, ¬ p b → t.peek b = s.peek b

section
variable {w : RegisterSet} {p : Addr → Prop} {s t u : State}

theorem Spares.trans (h₁ : Spares w p s t) (h₂ : Spares w p t u) : Spares w p s u :=
  ⟨fun h => (h₂.a h).trans (h₁.a h), fun h => (h₂.x h).trans (h₁.x h), fun h => (h₂.y h).trans (h₁.y h),
    fun h => (h₂.sp h).trans (h₁.sp h), fun b h => (h₂.memory b h).trans (h₁.memory b h)⟩

/-- A part that writes none of the four registers and no memory. -/
theorem spares_of_eq (ha : t.a = s.a) (hx : t.x = s.x) (hy : t.y = s.y) (hsp : t.sp = s.sp) (hm : t.mem = s.mem) :
    Spares w p s t :=
  ⟨fun _ => ha, fun _ => hx, fun _ => hy, fun _ => hsp, fun b _ => State.peek_congr hm b⟩

theorem spares_writeA (s : State) (v : Byte) (f : Flags) :
    Spares ⟨true, false, false, false⟩ p s { s with a := v, flags := f } :=
  ⟨nofun, fun _ => rfl, fun _ => rfl, fun _ => rfl, fun _ _ => rfl⟩

theorem spares_writeX (s : State) (v : Byte) (f : Flags) :
    Spares ⟨false, true, false, false⟩ p s { s with x := v, flags := f } :=
  ⟨fun _ => rfl, nofun, fun _ => rfl, fun _ => rfl, fun _ _ => rfl⟩

theorem spares_writeY (s : State) (v : Byte) (f : Flags) :
    Spares ⟨false, false, true, false⟩ p s { s with y := v, flags := f } :=
  ⟨fun _ => rfl, fun _ => rfl, nofun, fun _ => rfl, fun _ _ => rfl⟩

theorem spares_writeFlags (s : State) (f : Flags) : Spares w p s (s.setFlags f) :=
  spares_of_eq rfl rfl rfl rfl rfl

/-- A part that writes SP, and memory at most where `p` says. -/
theorem spares_writeSp (ha : t.a = s.a) (hx : t.x = s.x) (hy : t.y = s.y) (hm : ∀ b, ¬ p b → t.peek b = s.peek b) :
    Spares ⟨false, false, false, true⟩ p s t :=
  ⟨fun _ => ha, fun _ => hx, fun _ => hy, nofun, hm⟩

theorem spares_finish {c : Nat} (hs : Spares w p s u) (h : finish c u = .next t) : Spares w p s t := by
  obtain ⟨-, -, rfl⟩ := finish_next.1 h
  exact hs.trans (spares_of_eq rfl rfl rfl rfl rfl)

/-- A read-class instruction spares what its use of the operand does (R185). -/
theorem spares_readClass {i : Instr} {o : Operand} {use : Byte → State → State} (hu : ∀ m v, Spares w p v (use m v))
    (h : formed i (readClass o use s) = .next t) : Spares w p s t := by
  obtain ⟨m, v, c, -, ⟨-, hsp, ha, hx, hy, -, hm⟩, -, rfl⟩ := readClass_next (formed_next.1 h).2
  exact ((spares_of_eq ha hx hy hsp hm).trans (hu m v)).trans (spares_of_eq rfl rfl rfl rfl rfl)

/-- A mode list without the accumulator. -/
theorem ne_acc_of_contains {modes : List Mode} {o : Operand} (h : modes.contains o.mode = true)
    (ha : modes.contains .acc = false := by decide) : o ≠ .acc := by
  rintro rfl
  exact nomatch ha.symm.trans h

end

/-- Two pushes write two stack slots. -/
theorem push_push_peek_other (v v' : Byte) (s : State) {b : Addr}
    (hb : b ∉ [stackAddr s.sp, stackAddr (s.sp - 1)]) : (push v' (push v s)).peek b = s.peek b := by
  obtain ⟨h₀, h₁⟩ : b ≠ stackAddr s.sp ∧ b ≠ stackAddr (s.sp - 1) := by simpa using hb
  rw [push_peek_other _ _ _ (by simpa using h₁), push_peek_other _ _ _ h₀]

/-- A service writes the three stack slots it pushes to (60_exceptions.md R447). -/
theorem service_peek_other (vec : Addr) (c : Bool) (s : State) {b : Addr}
    (hb : b ∉ [stackAddr s.sp, stackAddr (s.sp - 1), stackAddr (s.sp - 2)]) : (service vec c s).peek b = s.peek b := by
  obtain ⟨hpc, hflags⟩ : b ∉ [stackAddr s.sp, stackAddr (s.sp - 1)] ∧ b ≠ stackAddr (s.sp - 2) := by
    simpa [and_assoc] using hb
  calc (service vec c s).peek b
      = (push (pushedFlags c s.flags) (push (lowByte s.pc) (push (highByte s.pc) s))).peek b :=
        State.peek_congr (by simp [service]) b
    _ = (push (lowByte s.pc) (push (highByte s.pc) s)).peek b :=
        push_peek_other _ _ _ (by simpa [BitVec.sub_sub] using hflags)
    _ = s.peek b := push_push_peek_other _ _ _ hpc

/-- No instruction writes a register or a byte of memory but its own (the instruction rules; 41_addressing_modes.md
R185). -/
theorem exec_spares {i : Instr} {s t : State} (h : exec i s = .next t) :
    Spares (registersWritten i) (WritesAt i s) s t := by
  cases i
  case lda o | and o | ora o | eor o | adc o | sbc o => exact spares_readClass (fun _ u => spares_writeA u _ _) h
  case ldx o => exact spares_readClass (fun _ u => spares_writeX u _ _) h
  case ldy o => exact spares_readClass (fun _ u => spares_writeY u _ _) h
  case cmp o | cpx o | cpy o | bit o => exact spares_readClass (fun _ u => spares_writeFlags u _) h
  case sta o | stx o | sty o =>
    obtain ⟨hw, h⟩ := formed_next.1 h
    obtain ⟨-, hsp, hx, hy, -, ha, hm⟩ := writeClass_next h
    exact ⟨fun _ => ha (ne_acc_of_contains hw), fun _ => hx, fun _ => hy, fun _ => hsp, hm⟩
  case inc o | dec o =>
    obtain ⟨hw, h⟩ := formed_next.1 h
    obtain ⟨-, hsp, hx, hy, ha, hm, -⟩ := modifyClass_next h
    exact ⟨fun _ => ha (ne_acc_of_contains hw), fun _ => hx, fun _ => hy, fun _ => hsp, hm⟩
  case asl o | lsr o | rol o | ror o =>
    obtain ⟨-, hsp, hx, hy, ha, hm, -⟩ := modifyClass_next (formed_next.1 h).2
    exact ⟨fun hne => ha (of_decide_eq_false hne), fun _ => hx, fun _ => hy, fun _ => hsp, hm⟩
  case txa | tya => exact spares_finish (spares_writeA s _ _) h
  case tax | tsx | inx | dex => exact spares_finish (spares_writeX s _ _) h
  case tay | iny | dey => exact spares_finish (spares_writeY s _ _) h
  case clc | sec | cli | sei | cld | sed | clv | nop => exact spares_finish (spares_writeFlags s _) h
  case txs => exact spares_finish (u := s.setSp s.x) (spares_writeSp rfl rfl rfl fun _ _ => rfl) h
  case pha | php =>
    refine spares_finish (spares_writeSp (by simp) (by simp) (by simp) fun b hb => ?_) h
    exact push_peek_other _ s b (by simpa [WritesAt] using hb)
  case pla =>
    exact spares_finish
      ⟨nofun, fun _ => by simp, fun _ => by simp, nofun, fun b _ => State.peek_congr (by simp) b⟩ h
  case plp | rts | rti =>
    exact spares_finish
      (spares_writeSp (by simp) (by simp) (by simp) fun b _ => State.peek_congr (by simp) b) h
  case bcc | bcs | beq | bmi | bne | bpl | bvc | bvs =>
    obtain ⟨hsp, ha, hx, hy, -, hm⟩ := branch_next h
    exact spares_of_eq ha hx hy hsp hm
  case jmp o =>
    exact spares_finish (spares_of_eq (by simp) (by simp) (by simp) (by simp) (by simp)) (formed_next.1 h).2
  case jsr lo =>
    refine spares_finish (spares_writeSp (by simp) (by simp) (by simp) fun b hb => ?_) h
    exact (State.peek_congr (by simp) b).trans (push_push_peek_other (highByte s.pc) (lowByte s.pc) s hb)
  case brk =>
    exact spares_finish
      (spares_writeSp (by simp) (by simp) (by simp) fun b hb => service_peek_other _ _ (s.setPc (s.pc + 1)) hb) h
  case undoc op => exact nomatch h

/-! ### The frame of an instruction -/

/-- The control state, and what is outside of the registers `w`, the flags `f` and the addresses of `p`, is as
before. -/
structure Frame (w : RegisterSet) (f : Flags) (p : Addr → Prop) (s t : State) : Prop extends Spares w p s t where
  control : KeepsControl s t
  flags : FlagsKept f s.flags t.flags

/-- What any instruction leaves alone when it answers a next state, for every adapter. -/
theorem exec_frame {i : Instr} {s t : State} (h : exec i s = .next t) :
    Frame (registersWritten i) (flagsWritten i) (WritesAt i s) s t := by
  have hs := exec_spares h
  obtain ⟨u, c, ⟨⟨n, hg⟩, hf, -⟩, hu⟩ := exec_ends i s t h
  obtain ⟨hr, -, rfl⟩ := finish_next.1 hu
  exact ⟨hs, ⟨hg.power, hg.resetPending, hr.trans (hg.refused hr).symm, hg.devices, hg.draws, hg.plain⟩, hf⟩

section
variable {w : RegisterSet} {f : Flags} {p : Addr → Prop} {s t : State}

theorem Frame.keepsMemory (h : Frame w f (fun _ => False) s t) : KeepsMemory s t :=
  fun b => h.memory b not_false

theorem Frame.keepsRegisters (h : Frame ⟨false, false, false, false⟩ f p s t) : KeepsRegisters s t :=
  ⟨h.a rfl, h.x rfl, h.y rfl, h.sp rfl⟩

/-- An instruction that writes N and Z alone. -/
theorem Frame.keepsVDIC (h : Frame w ⟨true, false, false, false, true, false⟩ p s t) : KeepsVDIC s t := by
  obtain ⟨-, hv, hd, hi, -, hc⟩ := h.flags
  exact ⟨hv rfl, hd rfl, hi rfl, hc rfl⟩

/-- An instruction that writes no flag. -/
theorem Frame.flags_eq (h : Frame w ⟨false, false, false, false, false, false⟩ p s t) : t.flags = s.flags := by
  obtain ⟨hn, hv, hd, hi, hz, hc⟩ := h.flags
  exact (Flags.mk.injEq ..).mpr ⟨hn rfl, hv rfl, hd rfl, hi rfl, hz rfl, hc rfl⟩

end

/-! ### The statements -/

/-- Settles O15: the indexed sum as a number. -/
theorem absoluteModesCross : Obligations.AbsoluteModesCross :=
  fun a s => ⟨rfl, indexed_eq a s.x s, indexed_eq a s.y s⟩

/-- Settles O16: on plain RAM the resolver makes the two pointer reads, and (zero page),Y then adds its index. -/
theorem pointerModesWrap : Obligations.PointerModesWrap := by
  refine fun s h => ⟨fun z => ?_, fun z => ?_, fun ptr => ?_⟩
  · refine ⟨zeroPage (z + s.x), zeroPage (z + s.x + 1), ?_, ?_, resolve_plain h rfl⟩
    · rw [zeroPage_toNat, BitVec.toNat_add]
    · simp [BitVec.toNat_add]
  · refine ⟨zeroPage z, zeroPage (z + 1), zeroPage_toNat z, ?_, ?_⟩
    · rw [zeroPage_toNat, BitVec.toNat_add]
      rfl
    · rw [resolve, zeroPagePointer_plain h]
      exact indexed_eq (s.word (zeroPage z) (zeroPage (z + 1))) s.y _
  · exact ⟨joinBytes (highByte ptr) (lowByte ptr + 1), indirectHigh_toNat ptr, resolve_plain h rfl⟩

/-- Settles O17: the signed sum, and the pages compared as numbers. -/
theorem relativeTarget : Obligations.RelativeTarget := by
  intro off s
  rw [resolve, relativeTarget_eq, otherPage_eq]

/-- Settles O57: the frame of each instruction, read off the registers, flags and addresses it may write. -/
theorem readInstructionsFrame : Obligations.ReadInstructionsFrame := by
  intro o s t kept
  refine ⟨fun h => ?lda, fun h => ?ldx, fun h => ?ldy, fun h => ?logic, fun h => ?arith, fun h => ?compare, fun h => ?bit⟩
  case lda =>
    have hf := exec_frame h
    exact ⟨⟨hf.control, hf.keepsMemory⟩, hf.keepsVDIC, hf.x rfl, hf.y rfl, hf.sp rfl⟩
  case ldx =>
    have hf := exec_frame h
    exact ⟨⟨hf.control, hf.keepsMemory⟩, hf.keepsVDIC, hf.a rfl, hf.y rfl, hf.sp rfl⟩
  case ldy =>
    have hf := exec_frame h
    exact ⟨⟨hf.control, hf.keepsMemory⟩, hf.keepsVDIC, hf.a rfl, hf.x rfl, hf.sp rfl⟩
  case logic =>
    rcases h with h | h | h
    all_goals
      have hf := exec_frame h
      exact ⟨⟨hf.control, hf.keepsMemory⟩, hf.keepsVDIC, hf.x rfl, hf.y rfl, hf.sp rfl⟩
  case arith =>
    rcases h with h | h
    all_goals
      have hf := exec_frame h
      obtain ⟨-, -, hd, hi, -, -⟩ := hf.flags
      exact ⟨⟨hf.control, hf.keepsMemory⟩, hf.x rfl, hf.y rfl, hf.sp rfl, hd rfl, hi rfl⟩
  case compare =>
    rcases h with h | h | h
    all_goals
      have hf := exec_frame h
      obtain ⟨-, hv, hd, hi, -, -⟩ := hf.flags
      exact ⟨⟨hf.control, hf.keepsMemory⟩, hf.keepsRegisters, hv rfl, hd rfl, hi rfl⟩
  case bit =>
    have hf := exec_frame h
    obtain ⟨-, -, hd, hi, -, hc⟩ := hf.flags
    exact ⟨⟨hf.control, hf.keepsMemory⟩, hf.keepsRegisters, hd rfl, hi rfl, hc rfl⟩

/-- Settles O58: the same, with the resolved address the only one written. -/
theorem storingInstructionsFrame : Obligations.StoringInstructionsFrame := by
  intro o s t kept
  refine ⟨fun h => ?store, fun h => ?step, fun h => ?shift⟩
  case store =>
    rcases h with h | h | h
    all_goals
      have hf := exec_frame h
      exact ⟨⟨hf.control, hf.memory⟩, hf.keepsRegisters, hf.flags_eq⟩
  case step =>
    rcases h with h | h
    all_goals
      have hf := exec_frame h
      exact ⟨⟨hf.control, hf.memory⟩, hf.keepsRegisters, hf.keepsVDIC⟩
  case shift =>
    rcases h with h | h | h | h
    all_goals
      have hf := exec_frame h
      obtain ⟨-, hv, hd, hi, -, -⟩ := hf.flags
      exact ⟨⟨hf.control, hf.memory⟩, fun ho => hf.a (decide_eq_false ho), hf.x rfl, hf.y rfl, hf.sp rfl, hv rfl, hd rfl,
        hi rfl⟩

/-- Settles O14: the zero-page sums as numbers. -/
theorem zeroPageModesWrap : Obligations.ZeroPageModesWrap := by
  intro z s
  rw [← zeroPage_eq_ofNat, ← zeroPage_add_eq_ofNat, ← zeroPage_add_eq_ofNat]
  exact ⟨rfl, rfl, rfl⟩

end Sys2Proof.Machine

/-!
SUPPORT AND PROOFS of the family 42_load_store_transfer.md. `SetNZ` as the two flags it writes; where the mode of a
reading instruction has its operand byte; the end of a step that sets N and Z; and the flags after an instruction, put
together from the ones it writes and the ones it keeps.
-/

namespace Sys2Proof.Machine

open Sys2Proof

/-! ### N and Z -/

/-- `SetNZ(v)` writes the sign of `v` to N and whether it is zero to Z (00_scope.md R15). -/
theorem Flags.setNZ_eq (f : Flags) (v : Byte) : f.setNZ v = { f with n := v.msb, z := decide (v = 0) } := by
  rw [BitVec.msb_eq_getLsbD_last]
  rfl

theorem State.setNZ_eq (s : State) (v : Byte) :
    s.setNZ v = { s with flags := { s.flags with n := v.msb, z := decide (v = 0) } } := by
  rw [State.setNZ, Flags.setNZ_eq, State.setFlags]

/-- The end of a two-cycle step that sets N and Z last. -/
theorem finish_setNZ {s u : State} (h : s.Ready) (v : Byte) (hr : u.refused = s.refused) (hc : u.cycles = s.cycles) :
    finish 2 (u.setNZ v) =
      .next { u.costing 2 with flags := { u.flags with n := v.msb, z := decide (v = 0) } } := by
  rw [State.setNZ_eq]
  exact finish_ready h (by decide) hr hc

/-! ### A reading instruction on plain RAM -/

/-- A mode list without the implied and the relative form has its operand byte at an address, in the instruction or in
the accumulator (41_addressing_modes.md R171 to R182). -/
theorem operand_named_of_contains {modes : List Mode} {o : Operand} (s : State) (h : modes.contains o.mode = true)
    (himp : modes.contains .imp = false := by decide) (hrel : modes.contains .rel = false := by decide) :
    (effectiveAddress o s).isSome ∨ o.mode = .imm ∨ o.mode = .acc := by
  cases o
  case imp => exact nomatch himp.symm.trans h
  case rel => exact nomatch hrel.symm.trans h
  case imm => exact .inr (.inl rfl)
  case acc => exact .inr (.inr rfl)
  all_goals exact .inl rfl

/-- A read-class instruction that is well formed completes on plain RAM, its operand byte used after its reads
(41_addressing_modes.md R184 to R186). -/
theorem formed_readClass_plain {i : Instr} {o : Operand} {use : Byte → State → State} {s : State} (h : s.Ready)
    (hw : i.wellFormed = true) (ho : (effectiveAddress o s).isSome ∨ o.mode = .imm ∨ o.mode = .acc)
    (hr : ∀ m t, (use m t).refused = t.refused) (hc : ∀ m t, (use m t).cycles = t.cycles) :
    formed i (readClass o use s) = .next
      ((use (operandValue o s) { s with history := operandReads o s ++ s.history }).costing
        (readCycles o.mode + crossCycles (pageCross o s))) :=
  (formed_of_wellFormed hw _).trans (readClass_plain h ho hr hc)

/-! ### The flags after an instruction -/

/-- The flags are those of before, with the ones that `w` allows to be written taken from after. -/
theorem FlagsKept.eq_written {w f g : Flags} (h : FlagsKept w f g) :
    g = ⟨cond w.n g.n f.n, cond w.v g.v f.v, cond w.d g.d f.d, cond w.i g.i f.i, cond w.z g.z f.z,
      cond w.c g.c f.c⟩ := by
  have pick {b x y : Bool} (hk : b = false → y = x) : y = cond b y x := by
    cases b with
    | false => exact hk rfl
    | true => rfl
  obtain ⟨hn, hv, hd, hi, hz, hc⟩ := h
  exact (Flags.mk.injEq ..).mpr ⟨pick hn, pick hv, pick hd, pick hi, pick hz, pick hc⟩

/-! ### The statements -/

/-- Settles O20: the read class on plain RAM, with the register and then N and Z written from the operand byte. -/
theorem loadsComplete : Obligations.LoadsComplete := by
  intro o s h m done
  refine ⟨fun hw => ?lda, fun hw => ?ldx, fun hw => ?ldy⟩
  all_goals
    refine Eq.trans (formed_readClass_plain h hw (operand_named_of_contains s hw) (fun _ _ => rfl) fun _ _ => rfl) ?_
    rw [State.setNZ_eq]
    rfl

/-- Settles O21: the write class on plain RAM, with each instruction's own register as the byte. -/
theorem storesComplete : Obligations.StoresComplete := by
  intro o s ea h he done
  have store {i : Instr} (hw : i.WellFormed) (v : Byte) : formed i (writeClass o v s) = .next (done v) :=
    (formed_of_wellFormed hw _).trans (writeClass_plain v h he)
  exact ⟨fun hw => store hw s.a, fun hw => store hw s.x, fun hw => store hw s.y⟩

/-- Settles O59: the frame of each instruction, read off the registers and flags it may write. -/
theorem impliedInstructionsFrame : Obligations.ImpliedInstructionsFrame := by
  intro s t kept
  refine ⟨fun h => ?writeX, fun h => ?writeY, fun h => ?writeA, fun h => ?txs, fun h => ?carry, fun h => ?interrupt,
    fun h => ?decimal, fun h => ?overflow, fun h => ?nop⟩
  case writeX =>
    rcases h with h | h | h | h
    all_goals
      have hf := exec_frame h
      exact ⟨⟨hf.control, hf.keepsMemory⟩, hf.keepsVDIC, hf.a rfl, hf.y rfl, hf.sp rfl⟩
  case writeY =>
    rcases h with h | h | h
    all_goals
      have hf := exec_frame h
      exact ⟨⟨hf.control, hf.keepsMemory⟩, hf.keepsVDIC, hf.a rfl, hf.x rfl, hf.sp rfl⟩
  case writeA =>
    rcases h with h | h
    all_goals
      have hf := exec_frame h
      exact ⟨⟨hf.control, hf.keepsMemory⟩, hf.keepsVDIC, hf.x rfl, hf.y rfl, hf.sp rfl⟩
  case txs =>
    have hf := exec_frame h
    exact ⟨⟨hf.control, hf.keepsMemory⟩, hf.flags_eq, hf.a rfl, hf.x rfl, hf.y rfl⟩
  case carry | interrupt | decimal =>
    rcases h with h | h
    all_goals
      have hf := exec_frame h
      exact ⟨⟨hf.control, hf.keepsMemory⟩, hf.keepsRegisters, hf.flags.eq_written⟩
  case overflow =>
    have hf := exec_frame h
    exact ⟨⟨hf.control, hf.keepsMemory⟩, hf.keepsRegisters, hf.flags.eq_written⟩
  case nop =>
    have hf := exec_frame h
    exact ⟨⟨hf.control, hf.keepsMemory⟩, hf.keepsRegisters, hf.flags_eq⟩

/-- Settles O22: the end of a two-cycle step, with the destination register written and, but for TXS, N and Z set. -/
theorem registerInstructionsComplete : Obligations.RegisterInstructionsComplete := by
  intro s h nz
  have toA (v : Byte) : finish 2 ((s.setA v).setNZ v) = .next { nz v with a := v } := finish_setNZ h v rfl rfl
  have toX (v : Byte) : finish 2 ((s.setX v).setNZ v) = .next { nz v with x := v } := finish_setNZ h v rfl rfl
  have toY (v : Byte) : finish 2 ((s.setY v).setNZ v) = .next { nz v with y := v } := finish_setNZ h v rfl rfl
  have txs : finish 2 (s.setSp s.x) = .next { s.costing 2 with sp := s.x } := finish_ready h (by decide) rfl rfl
  exact ⟨toX s.a, toY s.a, toA s.x, toA s.y, toX s.sp, txs, toX (s.x + 1), toY (s.y + 1), toX (s.x - 1),
    toY (s.y - 1)⟩

end Sys2Proof.Machine

/-!
SUPPORT AND PROOFS of the family 43_stack.md. The ends of a pushing and of a pulling instruction on plain RAM; the
frames of the stack and control instructions are those of `exec_frame`.
-/

namespace Sys2Proof.Machine

open Sys2Proof

/-! ### A stack instruction on plain RAM -/

/-- The end of a pushing instruction (43_stack.md R250, R251). -/
theorem finish_push_plain {s : State} (h : s.Ready) (v : Byte) :
    finish 3 (push v s) = .next { s.costing 3 with
      sp := s.sp - 1
      mem := s.mem.write (stackAddr s.sp).toNat v
      history := .write (stackAddr s.sp) v :: s.history } := by
  rw [push_plain h.1]
  exact finish_ready h (by decide) rfl rfl

/-- The end of a pulling instruction, whose use of the pulled byte writes registers and flags alone
(43_stack.md R252, R253). -/
theorem finish_pull_plain {s : State} {use : Byte → State → State} (h : s.Ready)
    (hr : ∀ m t, (use m t).refused = t.refused) (hc : ∀ m t, (use m t).cycles = t.cycles) :
    finish 4 (use (pull s).1 (pull s).2) = .next
      ((use (s.peek (stackAddr (s.sp + 1)))
        { s with sp := s.sp + 1, history := s.readOf (stackAddr (s.sp + 1)) :: s.history }).costing 4) := by
  rw [pull_plain h.1]
  exact finish_ready h (by decide) (hr _ _) (hc _ _)

/-! ### The statements -/

/-- Settles O60: the frame of each instruction, read off the registers, flags and stack slots it may write. -/
theorem stackAndControlFrame : Obligations.StackAndControlFrame := by
  intro off o s t axy
  refine ⟨fun h => ?jump, fun h => ?push, fun h => ?pla, fun h => ?pullFlags, fun h => ?jsr, fun h => ?rts,
    fun h => ?brk⟩
  case jump =>
    rcases h with h | h | h | h | h | h | h | h | h
    all_goals
      have hf := exec_frame h
      exact ⟨hf.control, hf.keepsMemory, hf.keepsRegisters, hf.flags_eq⟩
  case push =>
    rcases h with h | h
    all_goals
      have hf := exec_frame h
      exact ⟨hf.control, hf.memory, ⟨hf.a rfl, hf.x rfl, hf.y rfl⟩, hf.flags_eq⟩
  case pla =>
    have hf := exec_frame h
    exact ⟨hf.control, hf.keepsMemory, hf.x rfl, hf.y rfl, hf.keepsVDIC⟩
  case pullFlags =>
    rcases h with h | h
    all_goals
      have hf := exec_frame h
      exact ⟨hf.control, hf.keepsMemory, hf.a rfl, hf.x rfl, hf.y rfl⟩
  case jsr =>
    have hf := exec_frame h
    exact ⟨hf.control, hf.memory, ⟨hf.a rfl, hf.x rfl, hf.y rfl⟩, hf.flags_eq⟩
  case rts =>
    have hf := exec_frame h
    exact ⟨hf.control, hf.keepsMemory, ⟨hf.a rfl, hf.x rfl, hf.y rfl⟩, hf.flags_eq⟩
  case brk =>
    have hf := exec_frame h
    exact ⟨hf.control, hf.memory, ⟨hf.a rfl, hf.x rfl, hf.y rfl⟩, hf.flags.eq_written⟩

/-- Settles O24: the end of a push or of a pull on plain RAM, PLA's with A and then N and Z written from the pulled
byte. -/
theorem stackInstructionsComplete : Obligations.StackInstructionsComplete := by
  intro s h slot top pushed pulled m
  refine ⟨finish_push_plain h s.a, finish_push_plain h _, ?pla, ?plp⟩
  case pla =>
    refine (finish_pull_plain (use := fun v t => (t.setA v).setNZ v) h (fun _ _ => rfl) fun _ _ => rfl).trans ?_
    rw [State.setNZ_eq]
    rfl
  case plp =>
    exact finish_pull_plain (use := fun v t => t.setFlags (Flags.unpack v)) h (fun _ _ => rfl) fun _ _ => rfl

end Sys2Proof.Machine

/-!
SUPPORT AND PROOFS of the family 44_arith_logic.md. Bytes as numbers: bit 7, the signed value and the two digits, which
turn the flag rules of addition and subtraction into arithmetic; subtraction as the addition of the complement; and the
reading and the read-modify-write instructions on plain RAM, from the lemma of their class.
-/

namespace Sys2Proof.Machine

open Sys2Proof

/-! ### Bytes as numbers -/

theorem bitOf_seven (b : Byte) : bitOf b 7 = b.msb := (BitVec.msb_eq_getLsbD_last b).symm

/-- Bit 7 of a number taken modulo 256. -/
theorem bitOf_seven_ofNat (n : Nat) : bitOf (BitVec.ofNat 8 n) 7 = decide (n / 128 % 2 = 1) := by
  rw [bitOf_seven, BitVec.msb_eq_decide, BitVec.toNat_ofNat, decide_eq_decide]
  omega

/-- The signed value of a byte, as `sext` takes it from the number (00_scope.md R9). -/
theorem signedByte_toNat (b : Byte) : signedByte b.toNat = b.toInt := by
  rw [BitVec.toInt_eq_toNat_cond, signedByte]
  split <;> split <;> omega

/-- The complement of a byte as a number (44_arith_logic.md R271). -/
theorem complement_toNat (b : Byte) : (b ^^^ 0xFF).toNat = 255 - b.toNat := by
  rw [show b ^^^ 0xFF = ~~~b from BitVec.xor_allOnes, BitVec.toNat_not]

theorem complement_toInt (b : Byte) : (b ^^^ 0xFF).toInt = -1 - b.toInt := by
  have := b.isLt
  rw [← signedByte_toNat, ← signedByte_toNat, complement_toNat, signedByte, signedByte]
  split <;> split <;> omega

theorem carryNat_le (c : Bool) : carryNat c ≤ 1 := by cases c <;> decide

/-- The carry in integer arithmetic (00_scope.md R9). -/
theorem carryNat_cast (c : Bool) : (carryNat c : Int) = if c = true then 1 else 0 := by cases c <;> rfl

/-! ### Binary addition and subtraction -/

/-- The signed sum of two bytes and a carry leaves the range of a signed byte exactly when the bytes share a sign that
the sum modulo 256 does not have (44_arith_logic.md R270). -/
theorem signed_overflow_eq (a m : Byte) {c : Nat} (hc : c ≤ 1) :
    (a.msb == m.msb && (BitVec.ofNat 8 (a.toNat + m.toNat + c) : Byte).msb != a.msb) =
      decide (a.toInt + m.toInt + c < -128 ∨ a.toInt + m.toInt + c > 127) := by
  have ha := a.isLt
  have hm := m.isLt
  rw [← signedByte_toNat, ← signedByte_toNat, signedByte, signedByte, BitVec.msb_eq_decide, BitVec.msb_eq_decide,
    BitVec.msb_eq_decide, BitVec.toNat_ofNat, Bool.eq_iff_iff]
  simp only [Bool.and_eq_true, beq_iff_eq, bne_iff_ne, ne_eq, decide_eq_decide, decide_eq_true_eq]
  split <;> split <;> omega

theorem addBinary_eq (a m : Byte) (f : Flags) :
    addBinary a m f =
      let r : Byte := BitVec.ofNat 8 (a.toNat + m.toNat + carryNat f.c)
      let t : Int := a.toInt + m.toInt + carryNat f.c
      (r, { f with
        c := decide (a.toNat + m.toNat + carryNat f.c > 255)
        v := decide (t < -128 ∨ t > 127)
        n := r.msb
        z := decide (r = 0) }) := by
  simp only [addBinary, bitOf_seven, signed_overflow_eq a m (carryNat_le f.c)]
  rfl

section
variable (a m : Byte) (c : Nat)

/-- The sum with the complement is the difference, 256 too large (44_arith_logic.md R271). -/
theorem add_complement_eq : ((a.toNat + (m ^^^ 0xFF).toNat + c : Nat) : Int) = a.toNat - m.toNat - (1 - c) + 256 := by
  have hm := m.isLt
  rw [complement_toNat]
  omega

theorem sub_result_eq :
    BitVec.ofInt 8 (a.toNat - m.toNat - (1 - c)) = BitVec.ofNat 8 (a.toNat + (m ^^^ 0xFF).toNat + c) := by
  rw [← BitVec.ofInt_natCast, add_complement_eq]
  apply BitVec.eq_of_toNat_eq
  rw [BitVec.toNat_ofInt, BitVec.toNat_ofInt]
  omega

/-- No borrow is a carry out of the sum with the complement. -/
theorem sub_nonneg_iff :
    ((a.toNat : Int) - m.toNat - (1 - c) ≥ 0) ↔ a.toNat + (m ^^^ 0xFF).toNat + c > 255 := by
  have h := add_complement_eq a m c
  omega

end

/-- Binary subtraction is the addition of the complement, in result and flags (44_arith_logic.md R271). -/
theorem subBinary_eq_addBinary (a m : Byte) (f : Flags) : subBinary a m f = addBinary a (m ^^^ 0xFF) f := by
  have hsign : (bitOf a 7 != bitOf m 7) = (bitOf a 7 == bitOf (m ^^^ 0xFF) 7) := by
    rw [bitOf_seven m, bitOf_seven (m ^^^ 0xFF), BitVec.msb_xor]
    cases bitOf a 7 <;> cases m.msb <;> rfl
  simp only [subBinary, addBinary, sub_result_eq, sub_nonneg_iff, hsign]

/-! ### Decimal digits -/

theorem lowNibble_eq (b : Byte) : lowNibble b = (b &&& 0x0F).toNat := by
  rw [BitVec.toNat_and]
  exact (Nat.and_two_pow_sub_one_eq_mod b.toNat 4).symm

theorem highNibble_eq (b : Byte) : highNibble b = (b &&& 0xF0).toNat := by
  have hmask : (0xF0 : Byte) = BitVec.allOnes 8 <<< 4 := rfl
  have hb := b.isLt
  rw [hmask, ← BitVec.shiftLeft_ushiftRight, BitVec.toNat_shiftLeft, BitVec.toNat_ushiftRight, Nat.shiftLeft_eq,
    Nat.shiftRight_eq_div_pow, highNibble]
  omega

/-- The value of a byte as two decimal digits (44_arith_logic.md R272). -/
def bcdValue (b : Byte) : Nat := b.toNat / 16 * 10 + b.toNat % 16

/-- Both digits of a byte are decimal. -/
def ValidBcd (b : Byte) : Prop := b.toNat / 16 ≤ 9 ∧ b.toNat % 16 ≤ 9

/-- The digits of a valid BCD byte. -/
theorem ValidBcd.digits {b : Byte} (hb : ValidBcd b) :
    ∃ h l, h < 10 ∧ l < 10 ∧ highNibble b = 16 * h ∧ lowNibble b = l ∧ bcdValue b = 10 * h + l := by
  obtain ⟨hh, hl⟩ := hb
  exact ⟨b.toNat / 16, b.toNat % 16, by omega, by omega, Nat.mul_comm .., rfl, congrArg (· + _) (Nat.mul_comm ..)⟩

/-- A byte put together from two decimal digits. -/
theorem validBcd_of_digits {b : Byte} {h l n : Nat} (hh : h < 10) (hl : l < 10) (hb : b.toNat = 16 * h + l)
    (hn : 10 * h + l = n) : ValidBcd b ∧ bcdValue b = n := by
  unfold ValidBcd bcdValue
  omega

/-- The adjust by 6 carries a ten of the low digits as a sixteen (44_arith_logic.md R272). -/
theorem decimalAddLow_digit {a m : Byte} {c : Bool} (h : lowNibble a + lowNibble m + carryNat c < 20) :
    ∃ k l, l < 10 ∧ lowNibble a + lowNibble m + carryNat c = 10 * k + l ∧ decimalAddLow a m c = 16 * k + l := by
  unfold decimalAddLow
  dsimp only
  split
  · exact ⟨1, lowNibble a + lowNibble m + carryNat c - 10, by omega⟩
  · exact ⟨0, lowNibble a + lowNibble m + carryNat c, by omega⟩

/-- The adjust by 6 borrows a ten of the low digits as a sixteen (44_arith_logic.md R273). -/
theorem decimalSubLow_digit {a m : Byte} {c : Bool} (ha : lowNibble a < 10) (hm : lowNibble m < 10) :
    ∃ k l : Nat, l < 10 ∧ (lowNibble a : Int) - lowNibble m + carryNat c - 1 = l - 10 * k ∧
      decimalSubLow a m c = l - 16 * k := by
  have hc := carryNat_le c
  unfold decimalSubLow
  dsimp only
  split
  · exact ⟨1, lowNibble a + 10 + carryNat c - lowNibble m - 1, by omega⟩
  · exact ⟨0, lowNibble a + carryNat c - lowNibble m - 1, by omega⟩

/-- On valid BCD the decimal addition is the one of two-digit numbers: the high digits carry a hundred exactly when
the adjust by 0x60 is made (44_arith_logic.md R272). -/
theorem decimalAdd_bcd {a m : Byte} (f : Flags) (ha : ValidBcd a) (hm : ValidBcd m) :
    ValidBcd (decimalAdd a m f).1 ∧
      bcdValue (decimalAdd a m f).1 = (bcdValue a + bcdValue m + carryNat f.c) % 100 ∧
      (decimalAdd a m f).2.c = decide (bcdValue a + bcdValue m + carryNat f.c ≥ 100) := by
  obtain ⟨a₁, a₀, ha₁, ha₀, hah, hal, hav⟩ := ha.digits
  obtain ⟨m₁, m₀, hm₁, hm₀, hmh, hml, hmv⟩ := hm.digits
  have hc := carryNat_le f.c
  obtain ⟨k, l, hl, hlow, hadj⟩ := decimalAddLow_digit (a := a) (m := m) (c := f.c) (by omega)
  rw [← and_assoc, hav, hmv]
  simp only [decimalAdd, decide_eq_decide, hah, hmh, hadj]
  by_cases hten : a₁ + m₁ + k < 10
  · rw [if_neg (by omega)]
    exact ⟨validBcd_of_digits hten hl (by rw [BitVec.toNat_ofNat]; omega) (by omega), by omega⟩
  · rw [if_pos (by omega)]
    exact ⟨validBcd_of_digits (h := a₁ + m₁ + k - 10) (by omega) hl (by rw [BitVec.toNat_ofNat]; omega) (by omega),
      by omega⟩

/-- On valid BCD the decimal subtraction is the one of two-digit numbers: the high digits borrow a hundred exactly when
the adjust by 0x60 is made (44_arith_logic.md R273). -/
theorem decimalSub_bcd {a m : Byte} (c : Bool) (ha : ValidBcd a) (hm : ValidBcd m) :
    ValidBcd (decimalSub a m c) ∧
      bcdValue (decimalSub a m c) = (bcdValue a + 100 - bcdValue m - (1 - carryNat c)) % 100 := by
  obtain ⟨a₁, a₀, ha₁, ha₀, hah, hal, hav⟩ := ha.digits
  obtain ⟨m₁, m₀, hm₁, hm₀, hmh, hml, hmv⟩ := hm.digits
  have hc := carryNat_le c
  obtain ⟨k, l, hl, hlow, hadj⟩ := decimalSubLow_digit (a := a) (m := m) (c := c) (by omega) (by omega)
  rw [hav, hmv]
  simp only [decimalSub, hah, hmh, hadj]
  by_cases hten : m₁ + k ≤ a₁
  · rw [if_neg (by omega)]
    exact validBcd_of_digits (h := a₁ - (m₁ + k)) (by omega) hl (by rw [BitVec.toNat_ofInt]; omega) (by omega)
  · rw [if_pos (by omega)]
    exact validBcd_of_digits (h := a₁ + 10 - (m₁ + k)) (by omega) hl (by rw [BitVec.toNat_ofInt]; omega) (by omega)

/-! ### The mode that D selects, and the comparison -/

/-- SBC takes its flags from the binary subtraction in both modes (44_arith_logic.md R275). -/
theorem subWithBorrow_eq (a m : Byte) (f : Flags) :
    subWithBorrow a m f = (if f.d = true then decimalSub a m f.c else (subBinary a m f).1, (subBinary a m f).2) := by
  unfold subWithBorrow
  dsimp only
  split <;> rfl

/-- Z is equality, since the difference is zero there alone (44_arith_logic.md R279). -/
theorem compareFlags_eq (r m : Byte) (f : Flags) :
    compareFlags r m f = { f with c := decide (m.toNat ≤ r.toNat), z := decide (r = m), n := (r - m).msb } := by
  have hz : ((r - m == 0) : Bool) = decide (r = m) := by
    rw [Bool.eq_iff_iff, beq_iff_eq, decide_eq_true_eq, sub_eq_zero]
  simp only [compareFlags, bitOf_seven, hz, ge_iff_le]

/-! ### The statements -/

/-- Settles O26: V is the range of the signed sum, and the result is the sum modulo 256. -/
theorem binaryAddition : Obligations.BinaryAddition := by
  intro a m f c s t r
  have hr : r = BitVec.ofNat 8 s := BitVec.eq_of_toNat_eq (by simp [r])
  rw [hr]
  exact addBinary_eq a m f

/-- Settles O27: the addition of the complement, whose signed value is `-1 - m`. -/
theorem binarySubtraction : Obligations.BinarySubtraction := by
  intro a m f c d t r
  have hcarry : c = carryNat f.c := (carryNat_cast f.c).symm
  have ht : t = a.toInt + (m ^^^ 0xFF).toInt + carryNat f.c := by
    rw [complement_toInt]
    omega
  refine ⟨?_, subBinary_eq_addBinary a m f⟩
  simp only [subBinary_eq_addBinary, addBinary_eq, r, d, ht, hcarry, sub_result_eq, sub_nonneg_iff]

/-- Settles O28: the digit rule with the digits as masked halves, and on valid BCD the sum of two-digit numbers. -/
theorem decimalAddition : Obligations.DecimalAddition := by
  intro a m f c low al s t sum bcd valid
  refine ⟨?_, decimalAdd_bcd f⟩
  simp only [decimalAdd, decimalAddLow, lowNibble_eq, highNibble_eq, signedByte_toNat, bitOf_seven_ofNat,
    ← Bool.decide_or]
  rfl

/-- Settles O29: the digit rule with the digits as masked halves, and on valid BCD the two-digit difference. -/
theorem decimalSubtraction : Obligations.DecimalSubtraction := by
  intro a m carry c low al s bcd valid
  refine ⟨?_, decimalSub_bcd carry⟩
  simp only [decimalSub, decimalSubLow, lowNibble_eq, highNibble_eq]
  rfl

/-- Settles O25: the read class on plain RAM, with A and the flags written from the mode that D selects. -/
theorem addSubtractComplete : Obligations.AddSubtractComplete := by
  intro o s h m done sum difference
  refine ⟨fun hw => ?adc, fun hw => ?sbc⟩
  all_goals
    refine Eq.trans (formed_readClass_plain h hw (operand_named_of_contains s hw) (fun _ _ => rfl) fun _ _ => rfl) ?_
  case adc => rfl
  case sbc =>
    rw [accumulate, subWithBorrow_eq]
    rfl

/-- Settles O31: the read class on plain RAM, with A and then N and Z written from the bitwise result. -/
theorem logicComplete : Obligations.LogicComplete := by
  intro o s h m done
  refine ⟨fun hw => ?and, fun hw => ?ora, fun hw => ?eor⟩
  all_goals
    refine Eq.trans (formed_readClass_plain h hw (operand_named_of_contains s hw) (fun _ _ => rfl) fun _ _ => rfl) ?_
    rw [State.setNZ_eq]
    rfl

/-- Settles O32: the read class on plain RAM, with the flags alone written; Z of a compare is equality. -/
theorem comparesComplete : Obligations.ComparesComplete := by
  intro o s h m done compared
  refine ⟨fun hw => ?cmp, fun hw => ?cpx, fun hw => ?cpy, fun hw => ?bit⟩
  all_goals
    refine Eq.trans (formed_readClass_plain h hw (operand_named_of_contains s hw) (fun _ _ => rfl) fun _ _ => rfl) ?_
  case bit => rfl
  all_goals
    rw [compareFlags_eq]
    rfl

/-- Settles O33: the read-modify-write class on plain RAM, with N and Z set from the byte written. -/
theorem memoryStepsComplete : Obligations.MemoryStepsComplete := by
  intro o s ea h he done
  refine ⟨fun hw => ?inc, fun hw => ?dec⟩
  all_goals
    refine Eq.trans (formed_of_wellFormed hw _) ((modifyClass_plain _ h he).trans ?_)
    dsimp only [incrementByte, decrementByte]
    rw [Flags.setNZ_eq]

end Sys2Proof.Machine

/-!
SUPPORT AND PROOFS of the family 45_shift_rotate.md. The four operations as arithmetic on the number of a byte: `shifted`
is the result and the flags as the rules name them, and one equation says for each operation which of them it is. The
instructions are then the read-modify-write class, on the accumulator or on a byte of plain RAM.
-/

namespace Sys2Proof.Machine

open Sys2Proof

/-! ### The operations as arithmetic -/

/-- The byte of the number `k` and the flags of a shift that has this result, with `out` shifted out and N as given
(45_shift_rotate.md R334). -/
def shifted (k out : Nat) (n : Bool) (f : Flags) : Byte × Flags :=
  (BitVec.ofNat 8 k, { f with n := n, z := decide ((BitVec.ofNat 8 k : Byte) = 0), c := decide (out = 1) })

/-- A shift, from its result, the bit shifted out and bit 7 of the result. -/
theorem shiftFlags_eq_shifted {r : Byte} {b n : Bool} {k out : Nat} (f : Flags) (hr : r = BitVec.ofNat 8 k)
    (hout : b = decide (out = 1)) (hn : bitOf r 7 = n) : (r, shiftFlags b r f) = shifted k out n f := by
  subst hr hout hn
  rfl

/-- Bit 7 as the quotient that a shift to the left moves out. -/
theorem bitOf_seven_eq_div (v : Byte) : bitOf v 7 = decide (v.toNat / 128 = 1) := by
  have hv := v.isLt
  rw [bitOf_seven, BitVec.msb_eq_decide, decide_eq_decide]
  omega

/-- Bit 0 as the remainder that a shift to the right moves out. -/
theorem bitOf_zero_eq_mod (v : Byte) : bitOf v 0 = decide (v.toNat % 2 = 1) :=
  Nat.testBit_zero v.toNat

theorem shiftLeft_one_eq (v : Byte) : v <<< 1 = BitVec.ofNat 8 (v.toNat * 2) :=
  congrArg (BitVec.ofNat 8) (Nat.shiftLeft_eq v.toNat 1)

theorem shiftRight_one_eq (v : Byte) : v >>> 1 = BitVec.ofNat 8 (v.toNat / 2) := by
  have hv := v.isLt
  apply BitVec.eq_of_toNat_eq
  rw [BitVec.toNat_ushiftRight, BitVec.toNat_ofNat, Nat.shiftRight_eq_div_pow]
  omega

/-- The carry enters the bit that the doubling leaves free (45_shift_rotate.md R332). -/
theorem shiftLeft_or_carry_eq (v : Byte) (c : Bool) :
    v <<< 1 ||| BitVec.ofNat 8 (carryNat c) = BitVec.ofNat 8 (v.toNat * 2 + carryNat c) := by
  have hfree : carryNat c < 2 ^ 1 := Nat.lt_succ_of_le (carryNat_le c)
  have hdouble : v.toNat * 2 = v.toNat <<< 1 := (Nat.shiftLeft_eq v.toNat 1).symm
  rw [shiftLeft_one_eq, ← BitVec.ofNat_or, hdouble, Nat.shiftLeft_add_eq_or_of_lt hfree]

/-- The carry enters the bit that the halving leaves free (45_shift_rotate.md R333). -/
theorem shiftRight_or_carry_eq (v : Byte) (c : Bool) :
    v >>> 1 ||| BitVec.ofNat 8 (carryNat c) <<< 7 = BitVec.ofNat 8 (v.toNat / 2 + 128 * carryNat c) := by
  have hfree : v.toNat / 2 < 2 ^ 7 := by have hv := v.isLt; omega
  have htop : BitVec.ofNat 8 (carryNat c) <<< 7 = BitVec.ofNat 8 (carryNat c <<< 7) := by cases c <;> rfl
  rw [shiftRight_one_eq, htop, ← BitVec.ofNat_or, Nat.or_comm, ← Nat.shiftLeft_add_eq_or_of_lt hfree, Nat.shiftLeft_eq,
    Nat.add_comm, Nat.mul_comm]

section
variable (v : Byte) (f : Flags)

/-- ASL doubles (45_shift_rotate.md R330). -/
theorem shiftLeft_eq : shiftLeft v f = shifted (v.toNat * 2) (v.toNat / 128) (v.getLsbD 6) f :=
  shiftFlags_eq_shifted f (shiftLeft_one_eq v) (bitOf_seven_eq_div v) (by simp [bitOf])

/-- LSR halves, and leaves bit 7 clear (45_shift_rotate.md R331). -/
theorem shiftRight_eq : shiftRight v f = shifted (v.toNat / 2) (v.toNat % 2) false f :=
  shiftFlags_eq_shifted f (shiftRight_one_eq v) (bitOf_zero_eq_mod v) (by simp [bitOf])

/-- ROL doubles and adds the old C (45_shift_rotate.md R332). -/
theorem rotateLeft_eq :
    rotateLeft v f = shifted (v.toNat * 2 + carryNat f.c) (v.toNat / 128) (v.getLsbD 6) f :=
  shiftFlags_eq_shifted f (shiftLeft_or_carry_eq v f.c) (bitOf_seven_eq_div v) (by cases f.c <;> simp [bitOf, carryNat])

/-- ROR halves and puts the old C into bit 7 (45_shift_rotate.md R333). -/
theorem rotateRight_eq :
    rotateRight v f = shifted (v.toNat / 2 + 128 * carryNat f.c) (v.toNat % 2) f.c f :=
  shiftFlags_eq_shifted f (shiftRight_or_carry_eq v f.c) (bitOf_zero_eq_mod v) (by cases f.c <;> simp [bitOf, carryNat])

end

/-! ### The statements -/

/-- Settles O34: the class on the accumulator, with each operation's equation. -/
theorem accumulatorShiftsComplete : Obligations.AccumulatorShiftsComplete := by
  intro s h c done
  have shift {i : Instr} {f : Byte → Flags → Byte × Flags} {k out : Nat} {n : Bool} (hw : i.WellFormed)
      (hf : f s.a s.flags = shifted k out n s.flags) : formed i (modifyClass .acc f s) = .next (done k out n) := by
    rw [formed_of_wellFormed hw, modifyClass_acc f h, hf]
    rfl
  exact ⟨shift (i := .asl .acc) rfl (shiftLeft_eq _ _), shift (i := .lsr .acc) rfl (shiftRight_eq _ _),
    shift (i := .rol .acc) rfl (rotateLeft_eq _ _), shift (i := .ror .acc) rfl (rotateRight_eq _ _)⟩

/-- Settles O35: the class on a byte of plain RAM, with each operation's equation. -/
theorem memoryShiftsComplete : Obligations.MemoryShiftsComplete := by
  intro o s ea h he c v done
  have shift {i : Instr} {f : Byte → Flags → Byte × Flags} {k out : Nat} {n : Bool} (hw : i.WellFormed)
      (hf : f v s.flags = shifted k out n s.flags) : formed i (modifyClass o f s) = .next (done k out n) := by
    rw [formed_of_wellFormed hw, modifyClass_plain f h he, hf]
    rfl
  exact ⟨fun hw => shift hw (shiftLeft_eq v _), fun hw => shift hw (shiftRight_eq v _),
    fun hw => shift hw (rotateLeft_eq v _), fun hw => shift hw (rotateRight_eq v _)⟩

end Sys2Proof.Machine

/-!
SUPPORT AND PROOFS of the family 46_control.md. A branch and a jump on plain RAM; a word pushed to the stack, pulled from
it and read where it was pushed; and from these the subroutine and the interrupt instructions.
-/

namespace Sys2Proof.Machine

open Sys2Proof

/-! ### Branches and jumps on plain RAM -/

/-- A branch with its target as a signed sum and its page cost as a comparison of page numbers (46_control.md R360). -/
theorem branch_ready {s : State} (h : s.Ready) (cond : Bool) (off : Byte) :
    let t : Addr := BitVec.ofInt 16 (s.pc.toNat + off.toInt)
    branch cond off s = .next (if cond = true then
      { s.costing (if t.toNat / 256 = s.pc.toNat / 256 then 3 else 4) with pc := t } else s.costing 2) := by
  intro t
  have ht : s.pc + signExtend16 off = t := relativeTarget_eq s.pc off
  have hcost : 2 + (1 + crossCycles (otherPage t s.pc)) = if t.toNat / 256 = s.pc.toNat / 256 then 3 else 4 := by
    rw [otherPage_eq]
    by_cases hp : t.toNat / 256 = s.pc.toNat / 256 <;> simp [hp, crossCycles]
  have hle : (if t.toNat / 256 = s.pc.toNat / 256 then 3 else 4) ≤ 7 := by split <;> decide
  cases cond with
  | false => exact finish_ready h (by decide) rfl rfl
  | true =>
    simp only [branch, resolve, jumpTo, ht, hcost, if_true]
    exact finish_ready h hle rfl rfl

/-- JMP goes to the address its operand names, after the pointer reads of that operand alone (46_control.md R369). -/
theorem exec_jmp_plain {o : Operand} {s : State} {ea : Addr} (h : s.Ready) (hw : (Instr.jmp o).WellFormed)
    (he : effectiveAddress o s = some ea) :
    exec (.jmp o) s = .next { s.costing (jumpCycles o.mode) with
      pc := ea, history := pointerReads o s ++ s.history } := by
  have hle := jumpCycles_le o.mode
  simp only [exec, execJmp, formed_of_wellFormed hw, resolve_plain h.1 he, jumpTo]
  exact finish_ready h (by omega) rfl rfl

/-- The address of the pointer's second byte, from its number (41_addressing_modes.md R180). -/
theorem indirectHigh_eq_ofNat (p : Addr) :
    joinBytes (highByte p) (lowByte p + 1) = BitVec.ofNat 16 (p.toNat / 256 * 256 + (p.toNat + 1) % 256) := by
  rw [← indirectHigh_toNat, BitVec.ofNat_toNat, BitVec.setWidth_eq]

/-! ### A word on the stack -/

/-- A word pushed, high byte first, on plain RAM (20_memory.md R76). -/
theorem push_word_plain {s : State} (h : s.devices = []) (a : Addr) :
    push (lowByte a) (push (highByte a) s) = { s with
      sp := s.sp - 2
      mem := (s.mem.write (stackAddr s.sp).toNat (highByte a)).write (stackAddr (s.sp - 1)).toNat (lowByte a)
      history := [.write (stackAddr (s.sp - 1)) (lowByte a), .write (stackAddr s.sp) (highByte a)] ++ s.history } := by
  have hsp : s.sp - 1 - 1 = s.sp - 2 := BitVec.sub_sub s.sp 1 1
  rw [push_plain h, push_plain (by exact h), ← hsp]
  rfl

/-- A word pushed on plain RAM is the word that the two slots then hold. -/
theorem push_word_word {s : State} (h : s.devices = []) (a : Addr) :
    (push (lowByte a) (push (highByte a) s)).word (stackAddr (s.sp - 1)) (stackAddr s.sp) = a := by
  have hne : (stackAddr s.sp).toNat ≠ (stackAddr (s.sp - 1)).toNat := by
    rw [ne_eq, BitVec.toNat_inj, stackAddr_inj]
    bv_omega
  simp only [push_word_plain h, State.word, State.peek, Memory.read_write, hne, if_true, if_false, joinBytes_split]

/-- Two bytes pulled on plain RAM (20_memory.md R77). -/
theorem pull_pull_plain {s : State} (h : s.devices = []) :
    pull (pull s).2 = (s.peek (stackAddr (s.sp + 2)), { s with
      sp := s.sp + 2
      history := [s.readOf (stackAddr (s.sp + 2)), s.readOf (stackAddr (s.sp + 1))] ++ s.history }) := by
  have hsp : s.sp + 1 + 1 = s.sp + 2 := BitVec.add_assoc s.sp 1 1
  rw [pull_plain h, pull_plain (by exact h), ← hsp]
  rfl

/-- The return from a service on plain RAM: the flag byte and then the word of PC pulled (46_control.md R373). -/
theorem returnFromService_plain {s : State} (h : s.devices = []) :
    returnFromService s = { s with
      pc := s.word (stackAddr (s.sp + 2)) (stackAddr (s.sp + 3))
      sp := s.sp + 3
      flags := Flags.unpack (s.peek (stackAddr (s.sp + 1)))
      history := [s.readOf (stackAddr (s.sp + 3)), s.readOf (stackAddr (s.sp + 2)),
        s.readOf (stackAddr (s.sp + 1))] ++ s.history } := by
  have hlo : s.sp + 1 + 1 = s.sp + 2 := BitVec.add_assoc s.sp 1 1
  have hhi : s.sp + 1 + 2 = s.sp + 3 := BitVec.add_assoc s.sp 1 2
  simp only [returnFromService]
  rw [pull_plain h, pull_pull_plain (by exact h), pull_plain (by exact h), ← hlo, ← hhi]
  rfl

/-! ### The statements -/

/-- Settles O38: JSR is a word pushed and one read after it, RTS a word pulled. -/
theorem subroutineInstructionsComplete : Obligations.SubroutineInstructionsComplete := by
  intro s h
  refine ⟨fun lo => ?jsr, ?rts⟩
  case jsr =>
    simp only [exec, execJsr]
    rw [push_word_plain h.1, busRead_plain (by exact h.1)]
    exact finish_ready h (by decide) rfl rfl
  case rts =>
    simp only [exec, execRts]
    rw [pull_pull_plain h.1, pull_plain h.1]
    exact finish_ready h (by decide) rfl rfl

/-- Settles O44: the JSR has pushed its own PC, and RTS pulls it from the same two slots. -/
theorem returnFollowsCall : Obligations.ReturnFollowsCall := by
  intro lo s t u hd hcall hu hsp hkeep
  obtain ⟨-, -, ht⟩ := finish_next.1 hcall
  have htsp : t.sp = s.sp - 2 := by rw [ht]; simp [BitVec.sub_sub]
  have htmem : t.mem = (push (lowByte s.pc) (push (highByte s.pc) s)).mem := by rw [ht]; simp
  have hlo : u.sp + 1 = s.sp - 1 := by rw [hsp, htsp]; bv_omega
  have hhi : u.sp + 2 = s.sp := by rw [hsp, htsp]; bv_omega
  have hword : u.word (stackAddr (s.sp - 1)) (stackAddr s.sp) = s.pc := by
    rw [← push_word_word hd s.pc]
    simp [State.word, hkeep, State.peek_congr htmem]
  refine ⟨_, (subroutineInstructionsComplete u hu).2, ?pc, hhi⟩
  case pc =>
    show u.word (stackAddr (u.sp + 1)) (stackAddr (u.sp + 2)) + 1 = s.pc + 1
    rw [hlo, hhi, hword]

/-- Settles O36: each branch is `branch` on its own flag. -/
theorem branchesComplete : Obligations.BranchesComplete := by
  intro off s h t go
  have go_eq (cond : Bool) : branch cond off s = .next (go cond) := branch_ready h cond off
  exact ⟨go_eq _, go_eq _, go_eq _, go_eq _, go_eq _, go_eq _, go_eq _, go_eq _⟩

/-- Settles O39: the service sequence at a vector above the stack page, from past the padding byte. -/
theorem breakCompletes : Obligations.BreakCompletes := by
  intro s h
  simp only [exec, execBrk]
  rw [service_plain true (by exact h.1) (by decide) (by decide)]
  exact finish_ready h (by decide) rfl rfl

/-- Settles O37: the two forms of JMP, the pointer's second byte written as a number. -/
theorem jumpCompletes : Obligations.JumpCompletes := by
  intro a s h hi
  refine ⟨exec_jmp_plain (o := .abs a) h rfl rfl, (exec_jmp_plain (o := .ind a) h rfl rfl).trans ?_⟩
  rw [pointerReads, indirectHigh_eq_ofNat]
  rfl

/-- Settles O40: the return from a service in 6 cycles. -/
theorem returnFromInterruptCompletes : Obligations.ReturnFromInterruptCompletes := by
  intro s h
  simp only [exec, execRti]
  rw [returnFromService_plain h.1]
  exact finish_ready h (by decide) rfl rfl

end Sys2Proof.Machine

/-!
SUPPORT AND PROOFS of the family 47_flags_nop.md. What a boundary does with the IRQ line: an instruction where I masks it,
the service of 60_exceptions.md R446 where I is clear; and what that service has left in its three stack slots.
-/

namespace Sys2Proof.Machine

open Sys2Proof

/-! ### The boundary and the IRQ line -/

/-- A boundary with no latch set and the IRQ masked runs an instruction (40_execution_loop.md R133). -/
theorem boundaryEvent_masked {s : State} (hreset : s.resetPending = false) (hnmi : s.nmiPending = false)
    (hi : s.flags.i = true) : boundaryEvent s = .instruction := by
  simp [boundaryEvent, hreset, hnmi, hi]

/-- A boundary with no latch set, the line up and I clear serves the IRQ (60_exceptions.md R446, R450). -/
theorem boundaryEvent_irq {s : State} (hreset : s.resetPending = false) (hnmi : s.nmiPending = false)
    (hline : s.irqLine = true) (hi : s.flags.i = false) : boundaryEvent s = .irq := by
  simp [boundaryEvent, hreset, hnmi, hline, hi]

/-- The step of a ready state whose boundary serves the IRQ (60_exceptions.md R446, R447). -/
theorem step_irq_ready {s : State} (h : s.Ready) (hp : s.power = true) (he : boundaryEvent s = .irq) :
    step s = .next ((s.servicedOnRam irqVector false).costing serviceCost) := by
  rw [step_powered h.2.1 hp, poweredStep, he]
  simp only [irqService]
  rw [service_plain false h.1 (by decide) (by decide)]
  exact finish_ready h (by decide) rfl rfl

/-! ### The bytes a service pushes -/

/-- Bit 4 of the flag byte a service pushes is the break bit (60_exceptions.md R447): `P` itself has 0 there
(10_state.md R45). -/
theorem pushedFlags_getLsbD_four (b : Bool) (f : Flags) : (pushedFlags b f).getLsbD 4 = b := by
  have hpack : f.pack.getLsbD 4 = false := by
    simp only [Flags.pack, BitVec.getLsbD_append]
    rfl
  rw [pushedFlags_eq]
  cases b with
  | false => exact hpack
  | true => simp

/-- The three slots of a service hold PC, high byte first, and a byte with the break bit (60_exceptions.md R447). -/
theorem State.servicedOnRam_slots (s : State) (vec : Addr) (b : Bool) :
    (s.servicedOnRam vec b).peek (stackAddr s.sp) = highByte s.pc ∧
      (s.servicedOnRam vec b).peek (stackAddr (s.sp - 1)) = lowByte s.pc ∧
      ((s.servicedOnRam vec b).peek (stackAddr (s.sp - 2))).getLsbD 4 = b := by
  have slot_ne {p q : Byte} (h : p ≠ q) : (stackAddr p).toNat ≠ (stackAddr q).toNat := by
    rwa [ne_eq, BitVec.toNat_inj, stackAddr_inj]
  have h₀₁ := slot_ne (show s.sp ≠ s.sp - 1 by bv_omega)
  have h₀₂ := slot_ne (show s.sp ≠ s.sp - 2 by bv_omega)
  have h₁₂ := slot_ne (show s.sp - 1 ≠ s.sp - 2 by bv_omega)
  simp only [State.servicedOnRam, ← pushedFlags_eq, State.peek, Memory.read_write, h₀₁, h₀₂, h₁₂, if_true, if_false,
    pushedFlags_getLsbD_four, and_self]

/-! ### The statements -/

/-- Settles O23: the end of a two-cycle step, with the flags written and, for NOP, with nothing written. -/
theorem flagInstructionsComplete : Obligations.FlagInstructionsComplete := by
  intro s h with_
  have flagged (f : Flags) : finish 2 (s.setFlags f) = .next (with_ f) := finish_ready h (by decide) rfl rfl
  have nop : finish 2 s = .next (s.costing 2) := finish_ready h (by decide) rfl rfl
  exact ⟨flagged _, flagged _, flagged _, flagged _, flagged _, flagged _, flagged _, nop⟩

/-- The state after a step that runs CLI on plain RAM: its byte fetched, I clear, 2 cycles counted (47_flags_nop.md
R402). -/
def State.afterCli (s : State) : State :=
  { (s.fetched 1).costing 2 with flags := { s.flags with i := false } }

/-- The step of a ready state whose boundary runs an instruction, with the opcode of CLI at PC. -/
theorem step_cli_ready {s : State} (h : s.Ready) (hp : s.power = true) (he : boundaryEvent s = .instruction)
    (hop : s.peek s.pc = 0x58) : step s = .next s.afterCli := by
  have hdec : decode [s.peek s.pc, s.peek (s.pc + 1), s.peek (s.pc + 2)] =
      .ok (.cli, [s.peek (s.pc + 1), s.peek (s.pc + 2)]) := by rw [hop]; rfl
  obtain ⟨-, -, hcli, -⟩ := flagInstructionsComplete (s.fetched 1) h
  exact (stepRunsDecodedInstruction s .cli _ h.1 h.2.1 hp he hdec).trans hcli

/-- Settles O45: the masked boundary runs CLI, which leaves the line up and the latches clear, so that the next boundary
serves the IRQ from the state CLI answers. -/
theorem clearedMaskServesIrqNext : Obligations.ClearedMaskServesIrqNext := by
  intro s hd hr hfits hp hreset hnmi hline hi hop
  have hready : s.Ready := ⟨hd, hr, Config.fits_mono (Nat.add_le_add_left (by decide) _) hfits⟩
  have hcli := step_cli_ready hready hp (boundaryEvent_masked hreset hnmi hi) hop
  have hready' : s.afterCli.Ready := ⟨hd, hr, hfits⟩
  have hirq := step_irq_ready hready' hp (boundaryEvent_irq hreset hnmi hline rfl)
  exact ⟨_, _, hcli, rfl, rfl, hirq, rfl, rfl, rfl, s.afterCli.servicedOnRam_slots irqVector false⟩

end Sys2Proof.Machine

/-!
SUPPORT AND PROOFS of the families 48_undocumented.md, 60_exceptions.md and 70_reset_and_hazards.md. What each boundary
event does on plain RAM; the three bytes that a service leaves on the stack, for the return that pulls them; and the step
and the run that meet an undocumented opcode.
-/

namespace Sys2Proof.Machine

open Sys2Proof

/-! ### The bytes that a service leaves -/

/-- A byte pushed on plain RAM is what its slot then holds (20_memory.md R76). -/
theorem push_peek_same {s : State} (h : s.devices = []) (v : Byte) : (push v s).peek (stackAddr s.sp) = v := by
  rw [push_plain h]
  exact (State.peek_poke s _ _ v).trans (if_pos rfl)

/-- The memory after a service is the one its three pushes leave, whatever the vector is (60_exceptions.md R447). -/
theorem service_mem (vec : Addr) (b : Bool) (s : State) :
    (service vec b s).mem = (push (pushedFlags b s.flags) (push (lowByte s.pc) (push (highByte s.pc) s))).mem := by
  simp [service]

/-- The lowest slot of a service on plain RAM holds the flag byte. -/
theorem service_peek_flagSlot (vec : Addr) (b : Bool) {s : State} (h : s.devices = []) :
    (service vec b s).peek (stackAddr (s.sp - 2)) = pushedFlags b s.flags := by
  have hsp : (push (lowByte s.pc) (push (highByte s.pc) s)).sp = s.sp - 2 := by simp [BitVec.sub_sub]
  rw [State.peek_congr (service_mem vec b s), ← hsp]
  exact push_peek_same (by simpa using h) _

/-- The two slots above it hold PC: the push of the flag byte writes neither. -/
theorem service_word_pcSlots (vec : Addr) (b : Bool) {s : State} (h : s.devices = []) :
    (service vec b s).word (stackAddr (s.sp - 1)) (stackAddr s.sp) = s.pc := by
  have kept {p : Byte} (hp : p ≠ s.sp - 2) :
      (service vec b s).peek (stackAddr p) = (push (lowByte s.pc) (push (highByte s.pc) s)).peek (stackAddr p) := by
    rw [State.peek_congr (service_mem vec b s)]
    refine push_peek_other _ _ _ fun he => hp ?_
    simpa [BitVec.sub_sub] using stackAddr_inj.1 he
  rw [State.word, kept (by bv_omega), kept (by bv_omega)]
  exact push_word_word h s.pc

/-! ### The boundary events on plain RAM -/

/-- A boundary with no latch set runs an instruction where the IRQ line is down or masked (40_execution_loop.md R133). -/
theorem boundaryEvent_quiet {s : State} (hreset : s.resetPending = false) (hnmi : s.nmiPending = false)
    (hquiet : s.irqLine = false ∨ s.flags.i = true) : boundaryEvent s = .instruction := by
  rcases hquiet with hline | hi
  · simp [boundaryEvent, hreset, hnmi, hline]
  · exact boundaryEvent_masked hreset hnmi hi

/-- The reset sequence on plain RAM: nothing is pushed (70_reset_and_hazards.md R494). -/
theorem resetSequence_plain {s : State} (h : s.devices = []) :
    resetSequence s = { s with
      resetPending := false
      sp := 0xFD
      flags := { s.flags with i := true }
      pc := s.word 0xFFFC 0xFFFD
      history := [s.readOf 0xFFFD, s.readOf 0xFFFC] ++ s.history } := by
  simp only [resetSequence]
  rw [busRead16_plain (by exact h)]
  rfl

/-- The step of a ready state whose boundary serves the NMI: the latch is consumed, then the service runs
(60_exceptions.md R445, R447). -/
theorem step_nmi_ready {s : State} (h : s.Ready) (hp : s.power = true) (he : boundaryEvent s = .nmi) :
    step s = .next ((({ s with nmiPending := false } : State).servicedOnRam nmiVector false).costing serviceCost) := by
  rw [step_powered h.2.1 hp, poweredStep, he]
  simp only [nmiService]
  rw [service_plain false (by exact h.1) (by decide) (by decide)]
  exact finish_ready h (by decide) rfl rfl

/-! ### An undocumented opcode -/

/-- An undocumented value is encoded as itself alone. -/
theorem encode_undoc {op : Byte} (hop : op ∈ undocumentedOpcodes) : encode (.undoc op) = [op] := by
  simp [encode, Instr.opcode, Instr.operandBytes, hop]

/-- The step that fetches an undocumented value is refused, naming the value and where it stands
(48_undocumented.md R422). -/
theorem step_undocumented {s : State} (hd : s.devices = []) (hr : s.refused = none) (hp : s.power = true)
    (he : boundaryEvent s = .instruction) (hop : s.peek s.pc ∈ undocumentedOpcodes) :
    step s = .refused (.undocumentedOpcode (s.peek s.pc) s.pc) := by
  have hdec := (decode_cons_eq_ok_iff (tail := [s.peek (s.pc + 1), s.peek (s.pc + 2)])).2
    ⟨operandCount_le _, (ofBytes_eq_undoc_iff _ _ _).2 hop, rfl⟩
  have hpc : (s.fetched 1).pc - 1 = s.pc := BitVec.add_sub_cancel s.pc 1
  rw [stepRunsDecodedInstruction s _ _ hd hr hp he hdec, encode_undoc hop, exec, execUndoc, List.length_singleton, hpc]

/-- A loop below its budget that meets a refused step ends with it (40_execution_loop.md R141). -/
theorem runLoop_of_refused {fuel budget : Nat} {s : State} {r : Refusal} (hlt : s.cycles < budget)
    (h : step s = .refused r) : runLoop (fuel + 1) budget s = .refused r (refusedRecord r s) := by
  rw [runLoop, if_pos hlt, h]

/-- The first reason to refuse sets the mark (40_execution_loop.md R141). -/
theorem State.refuse_of_none {s : State} (hr : s.refused = none) (r : Refusal) :
    s.refuse r = { s with refused := some r } := by
  simp only [State.refuse, hr]

/-- The record that an undocumented opcode leaves on plain RAM: its byte read, PC past it, the mark set
(48_undocumented.md R422). -/
theorem refusedRecord_undocumented {s : State} (hd : s.devices = []) (hr : s.refused = none) (op : Byte) (a : Addr) :
    refusedRecord (.undocumentedOpcode op a) s = { s with
      pc := s.pc + 1
      refused := some (.undocumentedOpcode op a)
      history := s.readOf s.pc :: s.history } := by
  rw [refusedRecord, fetchByte_plain hd, State.refuse_of_none (by exact hr)]
  rfl

/-! ### The statements -/

/-- Settles O8: the step at the first boundary of the run is the refused one, and its record is the run's. -/
theorem undocumentedOpcodeRefused : Obligations.UndocumentedOpcodeRefused := by
  refine ⟨fun _ _ => rfl, fun s hd hr hp he hop => ⟨step_undocumented hd hr hp he hop, fun budget hpos hfits => ?run⟩⟩
  case run =>
    obtain ⟨fuel, rfl⟩ := Nat.exists_eq_add_one.2 hpos
    have hstep := step_undocumented (s := { s with cycles := 0 }) hd hr hp he hop
    rw [hostRun_powered hr hp hfits, runLoop_of_refused hpos hstep,
      refusedRecord_undocumented (by exact hd) (by exact hr)]
    rfl

/-- Settles O42: what the boundary finds in each case, and the step of that event. -/
theorem interruptServiceSteps : Obligations.InterruptServiceSteps := by
  intro s h hp hreset
  refine ⟨fun hnmi => ?nmi, fun hnmi hline hi => ?irq, fun hnmi hquiet => ?instruction⟩
  case nmi => exact step_nmi_ready h hp (by simp [boundaryEvent, hreset, hnmi])
  case irq => exact step_irq_ready h hp (boundaryEvent_irq hreset hnmi hline hi)
  case instruction => rw [step_powered h.2.1 hp, poweredStep, boundaryEvent_quiet hreset hnmi hquiet]

/-- Settles O43: RTI pulls the flag byte and the word of PC from the three slots that the service wrote, and the break
bit of the flag byte is not one of the flags (10_state.md R46). -/
theorem returnUndoesService : Obligations.ReturnUndoesService := by
  intro vec b s u hd hu hsp hkeep
  have hspService : u.sp = s.sp - 3 := by rw [hsp, service_sp, BitVec.sub_sub, BitVec.sub_sub]; rfl
  have hsp1 : u.sp + 1 = s.sp - 2 := by bv_omega
  have hsp2 : u.sp + 2 = s.sp - 1 := by bv_omega
  have hsp3 : u.sp + 3 = s.sp := by bv_omega
  have hflagSlot : u.peek (stackAddr (s.sp - 2)) = pushedFlags b s.flags := by
    rw [hkeep _ (by simp), service_peek_flagSlot vec b hd]
  have hpcSlots : u.word (stackAddr (s.sp - 1)) (stackAddr s.sp) = s.pc := by
    rw [← service_word_pcSlots vec b hd]
    simp [State.word, hkeep]
  refine ⟨_, returnFromInterruptCompletes u hu, ?pc, ?flags, hsp3⟩
  case pc =>
    show u.word (stackAddr (u.sp + 2)) (stackAddr (u.sp + 3)) = s.pc
    rw [hsp2, hsp3, hpcSlots]
  case flags =>
    show Flags.unpack (u.peek (stackAddr (u.sp + 1))) = s.flags
    rw [hsp1, hflagSlot, unpack_pushedFlags]

/-- Settles O41: the latch is looked at before the NMI's and the line, and the reset sequence makes two reads. -/
theorem resetSequenceStep : Obligations.ResetSequenceStep := by
  intro s h hp hreset
  have he : boundaryEvent s = .reset := by simp [boundaryEvent, hreset]
  rw [step_powered h.2.1 hp, poweredStep, he]
  simp only [resetSequence_plain h.1]
  exact finish_ready h (by decide) rfl rfl

/-- Settles O49: power-on writes nothing where the power flag is set, and elsewhere that flag and draws alone. -/
theorem hostOperationsWriteTheirField : Obligations.HostOperationsWriteTheirField := by
  intro s level
  have hstays (hp : s.power = true) : hostPower true s = s := by simp [hostPower, hp]
  refine ⟨rfl, hstays, ?powerOn, rfl, rfl, rfl⟩
  case powerOn =>
    cases hp : s.power with
    | true => rw [hstays hp]; exact ⟨hp, rfl, rfl, rfl, rfl, rfl, rfl, rfl⟩
    | false => simp [hostPower, hp]

/-- Settles O51: each clause by evaluation at the one state. -/
theorem resetMeetsInvariant : Obligations.ResetMeetsInvariant := by
  unfold Obligations.ResetMeetsInvariant
  decide

/-- Settles O52: the reset sequence of O41 from the powered initial record, whose empty memory has 0 at the vector. -/
theorem resetStateFollowsResetSequence : Obligations.ResetStateFollowsResetSequence :=
  ⟨resetSequenceStep _ (by decide) rfl rfl, rfl, rfl, rfl, rfl, rfl, rfl⟩

end Sys2Proof.Machine
